-- ==== Sys2Proof/Word.lean ====
section
/-! DEFINITION. The word types of the core: the 32-bit data path (`20_memory.md` rule R70) and the byte. -/

namespace Sys2Proof

/-- A 32-bit bus word: a command word, a register or an operand (`20_memory.md` R70). -/
abbrev Word := BitVec 32

/-- A byte of a memory window, a polynomial coefficient, a codeword or a matrix cell. -/
abbrev Byte := BitVec 8

end Sys2Proof
end

