-- ==== Sys2Proof/Config.lean ====
section
/-! DEFINITION. The implementation parameters of `00_scope.md` R5 as one record, which the state carries and no command,
access or reset writes; the constants of R5 that are no parameters; and the free values: the draws the spec leaves
open, as constants with no body, so that no proof can see a value of one. The parameters' defaults stand in
Machine/Tables.lean. -/

namespace Sys2Proof.Machine

/-- A group spec of EC_TABLE: `count` blocks of `total` codewords, `data` of them data (`44_codeword.md` R200). -/
structure EcGroup where
  count : Nat
  total : Nat
  data : Nat
  deriving DecidableEq, Repr

/-- One version's four rows of EC_TABLE, in the table's order L, M, Q, H. -/
structure EcRow where
  l : List EcGroup
  m : List EcGroup
  q : List EcGroup
  h : List EcGroup
  deriving DecidableEq, Repr

/-- One number for each mode (`42_segment.md` R160). -/
structure ByMode where
  numeric : Nat
  alphanumeric : Nat
  byte : Nat
  deriving DecidableEq, Repr

/-- The rows of `00_scope.md` R5 whose status is parameter, with QRC_BASE (`20_memory.md` R71). LATENCY is a draw,
`Config.latency`. The spec bounds none of them; what the model does with values the defaults do not show is log
entries 5 and 11 to 15. -/
structure Params where
  /-- POLY_MAX: the largest polynomial length. -/
  polyMax : Nat
  /-- BB_MAX_BITS: the bit buffer's size in bits, a multiple of 8 or not (log entry 13). -/
  bbMaxBits : Nat
  /-- DATA_MAX: the bytes of segment input memory. -/
  dataMax : Nat
  /-- SEG_MAX: the number of segment descriptors. -/
  segMax : Nat
  /-- EC_TABLE, one row per version 1..40 (`44_codeword.md` R201). -/
  ecTable : List EcRow
  /-- ALIGN_POS, one row per version 1..40 (`45_matrix.md` R232). Any coordinates (log entry 14). -/
  alignPos : List (List Nat)
  /-- MODE_IND: the 4-bit mode indicators (`42_segment.md` R160). DESIGN CHOICE: the mode codes do not follow it (log
  entry 12). -/
  modeInd : ByMode
  /-- LEN_BITS, one row per tier 1-9, 10-26, 27-40 (`42_segment.md` R161). -/
  lenBits : List ByMode
  /-- G15 and G15_MASK, the format information's generator and mask (`45_matrix.md` R238). -/
  g15 : Nat
  g15Mask : Nat
  /-- G18, the version information's generator (`45_matrix.md` R241). -/
  g18 : Nat
  /-- TRIAL_DARK_MODULE: whether the fixed module is DARK in a test trial (`45_matrix.md` R240). -/
  trialDarkModule : Bool
  /-- QRC_BASE: the core's base address in a system (`20_memory.md` R71). DESIGN CHOICE: any 24-bit address (log
  entry 11). -/
  qrcBase : BitVec 24
  deriving DecidableEq, Repr

end Sys2Proof.Machine

namespace Sys2Proof.Config

/-- VMAX (`00_scope.md` R5). VMIN is 1. -/
def maxVersion : Nat := 40

/-- MXDIM = module_count(40), the row stride of every matrix window (`00_scope.md` R5, `20_memory.md` R77). -/
def mxDim : Nat := 177

/-- CW_MAX: the bytes of codeword memory (`00_scope.md` R5). -/
def cwMax : Nat := 4096

/-- LATENCY: how many cycles lie between the acceptance and the completion of the `k`-th accepted command
(`70_reset_and_hazards.md` R352). A FREE VALUE: finite, and nothing else is known of it. -/
opaque latency : (k : Nat) → Nat

/-- The contents of a memory byte the spec leaves unspecified (`10_state.md` R55; `93_implementation_defined.md`
U1, U3, U4, U20). A FREE VALUE of the number of soft resets, of how often the byte's window was rebuilt, and of the
address, so that repeated reads agree (`20_memory.md` R79) and nothing else is known. -/
opaque unspecifiedByte : (resets generation addr : Nat) → Byte

/-- The byte the `k`-th read while BUSY returns at an address the running command may write
(`70_reset_and_hazards.md` R353; `93_implementation_defined.md` U2). A FREE VALUE. -/
opaque busyByte : (k addr : Nat) → Byte

end Sys2Proof.Config
end

