-- ==== Sys2Proof/Machine/Memory.lean ====
section
/-! DEFINITION. The memory map (`20_memory.md` R71) and memory as one list of (address, byte) cells over the whole
map, in one canonical form. Keys are offsets from QRC_BASE. -/

namespace Sys2Proof.Machine

/-- The memory windows of the map (`20_memory.md` R71), from 0x001000 up. -/
inductive Window where
  | expRom
  | logRom
  | segDesc
  | pcoef
  | data
  | bb
  | cw
  | tpl
  | final
  | trial (m : Nat)
  deriving DecidableEq, Repr

/-- The window's first address (`20_memory.md` R71). -/
def Window.base : Window → Nat
  | .expRom => 0x001000
  | .logRom => 0x001100
  | .segDesc => 0x002000
  | .pcoef => 0x003000
  | .data => 0x004000
  | .bb => 0x005000
  | .cw => 0x006000
  | .tpl => 0x010000
  | .final => 0x018000
  | .trial m => 0x020000 + 0x8000 * m

/-- The bytes of a matrix window, TPL, FINAL or TRIAL[m] (`20_memory.md` R71). -/
def matrixWindowSize : Nat := 0x8000

/-- The window an address lies in; `none` for the register range and for every unmapped address
(`20_memory.md` R71, R73). -/
def windowOf (a : Nat) : Option Window :=
  if a < 0x001000 then none
  else if a < 0x001100 then some .expRom
  else if a < 0x001200 then some .logRom
  else if a < 0x002000 then none
  else if a < 0x002080 then some .segDesc
  else if a < 0x003000 then none
  else if a < 0x003400 then some .pcoef
  else if a < 0x004000 then none
  else if a < 0x005000 then some .data
  else if a < 0x006000 then some .bb
  else if a < 0x007000 then some .cw
  else if a < 0x010000 then none
  else if a < 0x018000 then some .tpl
  else if a < 0x020000 then some .final
  else if a < 0x060000 then some (.trial ((a - 0x020000) / 0x8000))
  else none

/-- Whether an address of a matrix window is one of the 177 × 177 cells; the bytes from window offset 31329 up read
0x00 (`20_memory.md` R77). -/
def isCellOffset (a : Nat) : Bool := a % matrixWindowSize < Config.mxDim * Config.mxDim

/-- Whether the byte at an address can change: RAM, not a ROM, not the fixed tail of a matrix window, not a hole of
the map (`10_state.md` R44, R45; `20_memory.md` R77). -/
def Memory.writable (a : Nat) : Bool :=
  match windowOf a with
  | none | some .expRom | some .logRom => false
  | some .segDesc | some .pcoef | some .data | some .bb | some .cw => true
  | some .tpl | some .final | some (.trial _) => isCellOffset a

/-- What an address that is not listed reads as. The ROMs hold their tables (`10_state.md` R44, R45), BB is zero
after reset (R55), the tail of a matrix window reads 0x00 (`20_memory.md` R77). `none`: the spec gives the byte no
value (`10_state.md` R55, `93_implementation_defined.md` U1), and the machine takes a free value there. -/
def Memory.unlisted (a : Nat) : Option Byte :=
  match windowOf a with
  | some .expRom => some (expRom (a - 0x001000))
  | some .logRom => some (logRom (a - 0x001100))
  | some .bb => some 0
  | some .tpl | some .final | some (.trial _) => if isCellOffset a then none else some 0
  | some .segDesc | some .pcoef | some .data | some .cw | none => none

/-- The listed value of an address. -/
def Memory.lookup : List Host.Cell → Nat → Option Byte
  | [], _ => none
  | (b, v) :: rest, a => if b = a then some v else Memory.lookup rest a

/-- The byte at an address, `none` where nothing gives it a value. -/
def Memory.get (m : List Host.Cell) (a : Nat) : Option Byte :=
  if Memory.writable a then (Memory.lookup m a).or (Memory.unlisted a) else Memory.unlisted a

/-- Lists `v` at `a`, at its place in the rising order. -/
def Memory.insert : List Host.Cell → Nat → Byte → List Host.Cell
  | [], a, v => [(a, v)]
  | (b, w) :: rest, a, v =>
    if a < b then (a, v) :: (b, w) :: rest
    else if a = b then (a, v) :: rest
    else (b, w) :: Memory.insert rest a v

/-- Unlists `a`. -/
def Memory.erase (m : List Host.Cell) (a : Nat) : List Host.Cell := m.filter fun c => c.1 ≠ a

/-- Writes one byte, keeping the canonical form. An address whose byte cannot change is left alone. -/
def Memory.set (m : List Host.Cell) (a : Nat) (v : Byte) : List Host.Cell :=
  if Memory.writable a then
    if Memory.unlisted a = some v then Memory.erase m a else Memory.insert m a v
  else m

/-- Writes consecutive bytes from `a` on. -/
def Memory.setBytes (m : List Host.Cell) (a : Nat) : List Byte → List Host.Cell
  | [] => m
  | v :: rest => Memory.setBytes (Memory.set m a v) (a + 1) rest

/-- The cells listed at `base .. base + len`. -/
def Memory.slice (m : List Host.Cell) (base len : Nat) : List Host.Cell :=
  m.filter fun c => base ≤ c.1 && c.1 < base + len

/-- Replaces everything listed at `base .. base + len` by `cells`, which lie there in rising order. -/
def Memory.replace (m : List Host.Cell) (base len : Nat) (cells : List Host.Cell) : List Host.Cell :=
  (m.filter fun c => c.1 < base) ++ cells ++ m.filter fun c => base + len ≤ c.1

/-- The canonical form: addresses strictly rising, only bytes that can change, none at the value an unlisted address
reads as. Equal memories are equal lists. -/
abbrev Memory.wf (m : List Host.Cell) : Prop :=
  m.Pairwise (fun c d => c.1 < d.1) ∧
    ∀ c ∈ m, Memory.writable c.1 = true ∧ Memory.unlisted c.1 ≠ some c.2

end Sys2Proof.Machine
end

