-- ==== Sys2Proof/Machine/State.lean ====
section
/-! DEFINITION. The state of the core (`10_state.md` R20), the host's side of the bus as plain data, and the state
after power-on reset (`70_reset_and_hazards.md` R340). -/

namespace Sys2Proof.Machine

/-- The engine's in-flight command: the accepted word and the cycles left before it completes (`10_state.md` R53). -/
structure InFlight where
  word : Word
  left : Nat
  deriving DecidableEq, Repr

/-- The width of a bus access (`20_memory.md` R72, R74). -/
inductive Width where
  | byte
  | half
  | word
  deriving DecidableEq, Repr

/-- The bytes an access of this width moves. -/
def Width.bytes : Width → Nat
  | .byte => 1
  | .half => 2
  | .word => 4

/-- What the host does next (`70_reset_and_hazards.md` R354). -/
inductive HostAction where
  /-- A bus read of the given width at a 24-bit address (`20_memory.md` R70). -/
  | read (width : Width) (addr : BitVec 24)
  /-- A bus write; a narrow access drives the low bits of `value`. -/
  | write (width : Width) (addr : BitVec 24) (value : Word)
  /-- WAIT: read STATUS again and again until BUSY reads 0 (`30_encoding.md` R107). -/
  | wait
  deriving DecidableEq, Repr

/-- What the host gets back from an access: the data lines (0 for a bus error) and the bus error response
(`20_memory.md` R72-R75, `60_exceptions.md` R308). DESIGN CHOICE: the data lines read 0 above the width of an 8- or
16-bit read, and in the answer to a write (log entry 10). -/
structure BusResponse where
  data : Word
  error : Bool
  deriving DecidableEq, Repr

/-- THE MODEL'S OWN: which free value the machine takes next, and how often the memory whose contents the spec leaves
unspecified was rebuilt. Counters only: no statement rests on a value of one. -/
structure Draws where
  /-- Accepted commands: the index of the next LATENCY draw (`70_reset_and_hazards.md` R352). -/
  accepted : Nat
  /-- Reads while BUSY: the index of the next such draw (`70_reset_and_hazards.md` R353). -/
  reads : Nat
  /-- Soft resets: each leaves the memories of `10_state.md` R55 unspecified again. -/
  resets : Nat
  /-- How often CW was rebuilt; bytes at index CWLEN and up hold any value (`93_implementation_defined.md` U4). -/
  cw : Nat
  /-- How often TPL was rebuilt; bytes outside its square hold any value (`20_memory.md` R77). -/
  tpl : Nat
  /-- How often FINAL was rebuilt. -/
  final : Nat
  /-- How often each TRIAL[m] was rebuilt. -/
  trial : Vector Nat 8
  deriving DecidableEq, Repr

/-- The machine. Registers stand as their fields (`10_state.md` section 2): a reserved bit reads 0 and ignores writes
(R43), so it has no storage. STATUS.BUSY has one home, `inFlight` (R23). -/
structure State where
  /-- CTRL.IE_DONE, CTRL.IE_ERR (R22). -/
  ieDone : Bool
  ieErr : Bool
  /-- STATUS.DONE (R24), ERR and ERRCODE (R25), COLL (R26), LASTOP (R27). -/
  done : Bool
  err : Bool
  coll : Bool
  errCode : Byte
  lastOp : Byte
  /-- CFG.VERSION (R29), CFG.LEVEL (R30), CFG.MAXVER (R31). -/
  cfgVersion : BitVec 6
  cfgLevel : BitVec 2
  cfgMaxVer : BitVec 6
  /-- ARG0, ARG1 (R32), RESULT (R33). -/
  arg0 : Word
  arg1 : Word
  result : Word
  /-- BITLEN (R34), CWLEN (R35), NSEG (R36). -/
  bitLen : BitVec 16
  cwLen : BitVec 16
  nseg : BitVec 5
  /-- RES.VERSION, RES.MODE, RES.MASK (R37). -/
  resVersion : BitVec 6
  resMode : BitVec 4
  resMask : BitVec 3
  /-- TPLVER, FINALVER (R38). -/
  tplVer : BitVec 6
  finalVer : BitVec 6
  /-- ECINFO.NBLOCKS, ECINFO.ECPB, ECINFO.TOTAL (R39). -/
  ecNBlocks : Byte
  ecEcpb : Byte
  ecTotal : BitVec 16
  /-- BEST, PEN[0..7] (R40). -/
  best : BitVec 3
  pen : Vector Word 8
  /-- PLEN[0..3] (R42). -/
  plen : Vector (BitVec 9) 4
  /-- SEGDESC, PCOEF, DATA, BB, CW, TPL, FINAL, TRIAL[0..7] (R42, R46-R52), one list of cells. -/
  mem : List Host.Cell
  /-- The command being executed (R53), `none` when BUSY = 0. -/
  inFlight : Option InFlight
  /-- THE MODEL'S OWN: the host's actions still to come, oldest first. -/
  hostQueue : List HostAction
  /-- THE MODEL'S OWN: what the host's last access returned. -/
  response : Option BusResponse
  /-- THE MODEL'S OWN: the free values' counters. -/
  draws : Draws
  /-- The implementation parameters (`00_scope.md` R5): the machine's configuration, which nothing writes. DESIGN CHOICE:
  the state carries it (log entry 5). -/
  params : Params
  deriving DecidableEq, Repr

/-- Why the machine stops with a fault. Nothing does: every command completes (`70_reset_and_hazards.md` R352), a
command error is a next state (`60_exceptions.md` R300), and a rejected bus access is a response (R308). -/
inductive Fault where
  deriving DecidableEq, Repr

/-- Why the model gives an instruction no meaning. -/
inductive Refusal where
  /-- Raised by an arm of `exec` for an instruction not yet modelled (safe). No arm raises it in this model. -/
  | notModelled (mnemonic : String)
  deriving DecidableEq, Repr

/-- No free value taken yet. DESIGN CHOICE: the counters start at 0 (log entries 2, 3, 4); they are the model's own. -/
def Draws.start : Draws :=
  { accepted := 0, reads := 0, resets := 0, cw := 0, tpl := 0, final := 0, trial := Vector.replicate 8 0 }

/-- A core with parameters `p` right after power-on reset (`70_reset_and_hazards.md` R340, the register table of
`10_state.md` section 2, R55). The host has issued nothing yet. -/
def State.resetWith (p : Params) : State where
  ieDone := false
  ieErr := false
  done := false
  err := false
  coll := false
  errCode := 0
  lastOp := 0
  cfgVersion := 0
  cfgLevel := 2
  cfgMaxVer := 40
  arg0 := 0
  arg1 := 0
  result := 0
  bitLen := 0
  cwLen := 0
  nseg := 0
  resVersion := 0
  resMode := 0
  resMask := 0
  tplVer := 0
  finalVer := 0
  ecNBlocks := 0
  ecEcpb := 0
  ecTotal := 0
  best := 0
  pen := Vector.replicate 8 0
  plen := Vector.replicate 4 0
  mem := []
  inFlight := none
  hostQueue := []
  response := none
  draws := Draws.start
  params := p

/-- The machine right after power-on reset, with every parameter at its default. DESIGN CHOICE: the defaults (log entry 5). -/
def State.reset : State := State.resetWith Params.default

end Sys2Proof.Machine
end

