-- ==== Sys2Proof/Machine/Ops.lean ====
section
/-! DEFINITION. The named operations over memory and registers: reading and writing bytes and matrices, accepting a
command, completing it, raising an error (the core's one exception), soft reset. -/

namespace Sys2Proof.Machine

/-- The error codes of `60_exceptions.md` R301. ERR_VAL_LEVEL (0x13) is reserved and never produced (R303). -/
inductive ErrCode where
  | illegal
  | valShape
  | valVersion
  | valAlphabet
  | capNoVersion
  | capOverflow
  | rangeCoord
  | rangeMask
  | rangeMode
  | rangeVersion
  | domainLog
  | domainEmpty
  | hwPolyLen
  | hwBbFull
  | hwDataBounds
  | hwNoTemplate
  | hwNotPadded
  | hwOperand
  deriving DecidableEq, Repr

/-- The code STATUS.ERRCODE reports (`60_exceptions.md` R301). -/
def ErrCode.code : ErrCode → Byte
  | .illegal => 0x01
  | .valShape => 0x10
  | .valVersion => 0x11
  | .valAlphabet => 0x12
  | .capNoVersion => 0x20
  | .capOverflow => 0x21
  | .rangeCoord => 0x30
  | .rangeMask => 0x31
  | .rangeMode => 0x32
  | .rangeVersion => 0x33
  | .domainLog => 0x34
  | .domainEmpty => 0x35
  | .hwPolyLen => 0x40
  | .hwBbFull => 0x41
  | .hwDataBounds => 0x42
  | .hwNoTemplate => 0x43
  | .hwNotPadded => 0x44
  | .hwOperand => 0x45

/-- The effect of a command's rule: the state it leaves, or the error it raises (`00_scope.md` R9). -/
abbrev Rule := State → Except ErrCode State

/-! ## Reading and writing memory -/

/-- How often the memory around an address was rebuilt since the last reset. -/
def Draws.generation (d : Draws) (a : Nat) : Nat :=
  match windowOf a with
  | some .cw => d.cw
  | some .tpl => d.tpl
  | some .final => d.final
  | some (.trial m) => d.trial.toList.getD m 0
  | _ => 0

/-- A byte of memory; where the spec gives it no value, the free value (`10_state.md` R55). -/
def byteOf (d : Draws) (m : List Host.Cell) (a : Nat) : Byte :=
  (Memory.get m a).getD (Config.unspecifiedByte d.resets (d.generation a) a)

/-- The byte at an address of the map. -/
def State.byteAt (s : State) (a : Nat) : Byte := byteOf s.draws s.mem a

/-- The bytes at `base .. base + len`. -/
def State.bytesAt (s : State) (base len : Nat) : List Byte :=
  let near := Memory.slice s.mem base len
  (List.range len).map fun i => byteOf s.draws near (base + i)

/-- Writes consecutive bytes. -/
def State.setBytes (s : State) (a : Nat) (bytes : List Byte) : State :=
  { s with mem := Memory.setBytes s.mem a bytes }

/-- Replaces the codeword memory by `bytes`; the rest of CW holds any value (`10_state.md` R49,
`93_implementation_defined.md` U4). DESIGN CHOICE: codewords past CW_MAX, which no default row has, are dropped (log
entry 15). -/
def State.storeCw (s : State) (bytes : List Byte) : State :=
  { s with
    mem := Memory.replace s.mem Window.cw.base Config.cwMax
      ((bytes.take Config.cwMax).zipIdx.map fun (v, i) => (Window.cw.base + i, v))
    draws := { s.draws with cw := s.draws.cw + 1 } }

/-! ## Matrices -/

/-- A square matrix of cell bytes, row 0 first (`45_matrix.md` R230). -/
abbrev Grid := List (List Byte)

/-- The cell bytes of `20_memory.md` R77. -/
def cellUnset : Byte := 0x00
def cellLight : Byte := 0x01
def cellDark : Byte := 0x02

/-- `module_count(v)` (`45_matrix.md` R230). -/
def moduleCount (v : Nat) : Nat := 4 * v + 17

/-- `T(r, c)`. -/
def Grid.get (g : Grid) (r c : Nat) : Byte := (g.getD r []).getD c cellUnset

/-- Sets cell `(r, c)`; a cell outside the matrix is left alone. -/
def Grid.set (g : Grid) (r c : Nat) (v : Byte) : Grid := g.modify r fun row => row.set c v

/-- The cells of a matrix at their addresses: cell `(r, c)` at `base + r·MXDIM + c` (`20_memory.md` R77). A window has
MXDIM rows and columns. -/
def matrixCells (base : Nat) (g : Grid) : List Host.Cell :=
  (g.take Config.mxDim).zipIdx.flatMap fun (row, r) =>
    (row.take Config.mxDim).zipIdx.map fun (v, c) => (base + r * Config.mxDim + c, v)

/-- The n × n matrix held in a window. -/
def State.matrixAt (s : State) (w : Window) (n : Nat) : Grid :=
  let near := { s with mem := Memory.slice s.mem w.base matrixWindowSize }
  (List.range n).map fun r => near.bytesAt (w.base + r * Config.mxDim) n

/-- Replaces a matrix window's contents by a matrix; cells outside its square hold any value (`20_memory.md` R77). -/
def State.matrixMem (s : State) (w : Window) (g : Grid) : List Host.Cell :=
  Memory.replace s.mem w.base matrixWindowSize (matrixCells w.base g)

/-- TPL <- g. -/
def State.storeTpl (s : State) (g : Grid) : State :=
  { s with mem := s.matrixMem .tpl g, draws := { s.draws with tpl := s.draws.tpl + 1 } }

/-- FINAL <- g. -/
def State.storeFinal (s : State) (g : Grid) : State :=
  { s with mem := s.matrixMem .final g, draws := { s.draws with final := s.draws.final + 1 } }

/-- TRIAL[m] <- g. -/
def State.storeTrial (s : State) (m : Nat) (g : Grid) : State :=
  { s with
    mem := s.matrixMem (.trial m) g
    draws := { s.draws with
      trial := s.draws.trial.setIfInBounds m (s.draws.trial.toList.getD m 0 + 1) } }

/-! ## The command protocol -/

/-- STATUS.BUSY (`10_state.md` R23): a command is in flight. -/
def State.busy (s : State) : Bool := s.inFlight.isSome

/-- `accept(w)` of `70_reset_and_hazards.md` R350, with `left` cycles until completion. STATUS.COLL is not changed. -/
def State.acceptWith (s : State) (w : Word) (left : Nat) : State :=
  { s with
    done := false
    err := false
    errCode := 0
    lastOp := w.extractLsb' 0 8
    inFlight := some { word := w, left := left } }

/-- Accepts a command: its latency is the next LATENCY draw (`70_reset_and_hazards.md` R350, R352). -/
def State.accept (s : State) (w : Word) : State :=
  { s.acceptWith w (Config.latency s.draws.accepted) with
    draws := { s.draws with accepted := s.draws.accepted + 1 } }

/-- `raise E` (`60_exceptions.md` R300, R305): the command ends and only STATUS changes: ERR, ERRCODE, DONE and BUSY
as `complete()` of `70_reset_and_hazards.md` R350 sets them. There is no vector and no saved state. -/
def State.raise (s : State) (e : ErrCode) : State :=
  { s with err := true, errCode := e.code, done := true, inFlight := none }

/-- `complete()` of a command that succeeded (`70_reset_and_hazards.md` R350): ERR and ERRCODE stay as acceptance
left them. -/
def State.succeed (s : State) : State :=
  { s with done := true, inFlight := none }

/-- The return from an error: the host's write of 1s to STATUS clears DONE, ERR with ERRCODE, and COLL
(`10_state.md` R24-R26, `60_exceptions.md` R307). -/
def State.ackStatus (s : State) (ackDone ackErr ackColl : Bool) : State :=
  { s with
    done := s.done && !ackDone
    err := s.err && !ackErr
    errCode := if ackErr then 0 else s.errCode
    coll := s.coll && !ackColl }

/-- The state a command leaves: its effect reported as success, or the error it raised, which changes nothing but
STATUS (`60_exceptions.md` R305). -/
def State.finish (s : State) (effect : Except ErrCode State) : State :=
  match effect with
  | .ok t => t.succeed
  | .error e => s.raise e

/-- `complete()` (`70_reset_and_hazards.md` R350): runs a command's rule and reports its outcome in STATUS. -/
def complete (s : State) (rule : Rule) : Host.Outcome State Fault Refusal := .next (s.finish (rule s))

/-- Runs rules in order. The first failing one ends the run with its error; the completed ones keep their effects
(`60_exceptions.md` R305, `46_encoder.md` R284). -/
def runSteps : List Rule → State → State × Option ErrCode
  | [], s => (s, none)
  | rule :: rest, s =>
    match rule s with
    | .ok t => runSteps rest t
    | .error e => (s, some e)

/-- The state a command made of steps leaves: the state reached, and the error of the step that ended it. -/
def finishSteps (reached : State × Option ErrCode) : State :=
  match reached.2 with
  | none => reached.1.succeed
  | some e => reached.1.raise e

/-- `complete()` of a command made of steps. -/
def completeSteps (s : State) (steps : List Rule) : Host.Outcome State Fault Refusal :=
  .next (finishSteps (runSteps steps s))

/-- Soft reset (`70_reset_and_hazards.md` R341): the reset state, a command in flight abandoned, the memories of
`10_state.md` R55 unspecified anew. The host and its bus are outside the core and stay,
and so do the parameters. -/
def State.softReset (s : State) : State :=
  { State.resetWith s.params with
    hostQueue := s.hostQueue
    response := s.response
    draws := { Draws.start with
      accepted := s.draws.accepted
      reads := s.draws.reads
      resets := s.draws.resets + 1 } }

end Sys2Proof.Machine
end

