-- ==== Sys2Proof/Machine/Flags.lean ====
section
/-! DEFINITION. The register words as the host reads them, assembled from their fields (`10_state.md` section 2), and
the interrupt line (`60_exceptions.md` R310). -/

namespace Sys2Proof.Machine

/-- A Bool as bit `i` of a word. -/
def flagBit (b : Bool) (i : Nat) : Word := if b then BitVec.ofNat 32 (2 ^ i) else 0

/-- A field placed with its bit 0 at bit `lo` of a word. -/
def fieldAt (w : Nat) (v : BitVec w) (lo : Nat) : Word := v.setWidth 32 <<< lo

/-- STATUS: [0] BUSY, [1] DONE, [2] ERR, [3] COLL, [15:8] ERRCODE, [23:16] LASTOP. -/
def State.statusWord (s : State) : Word :=
  flagBit s.busy 0 ||| flagBit s.done 1 ||| flagBit s.err 2 ||| flagBit s.coll 3
    ||| fieldAt 8 s.errCode 8 ||| fieldAt 8 s.lastOp 16

/-- CTRL: [0] IE_DONE, [1] IE_ERR; SOFT_RESET reads 0. -/
def State.ctrlWord (s : State) : Word := flagBit s.ieDone 0 ||| flagBit s.ieErr 1

/-- CFG: [5:0] VERSION, [9:8] LEVEL, [21:16] MAXVER. -/
def State.cfgWord (s : State) : Word :=
  fieldAt 6 s.cfgVersion 0 ||| fieldAt 2 s.cfgLevel 8 ||| fieldAt 6 s.cfgMaxVer 16

/-- RES: [5:0] VERSION, [11:8] MODE, [18:16] MASK. -/
def State.resWord (s : State) : Word :=
  fieldAt 6 s.resVersion 0 ||| fieldAt 4 s.resMode 8 ||| fieldAt 3 s.resMask 16

/-- ECINFO: [7:0] NBLOCKS, [15:8] ECPB, [31:16] TOTAL. -/
def State.ecInfoWord (s : State) : Word :=
  fieldAt 8 s.ecNBlocks 0 ||| fieldAt 8 s.ecEcpb 8 ||| fieldAt 16 s.ecTotal 16

/-- The interrupt output: `IRQ = (DONE and IE_DONE) or (ERR and IE_ERR)` (`60_exceptions.md` R310). -/
def State.irq (s : State) : Bool := (s.done && s.ieDone) || (s.err && s.ieErr)

end Sys2Proof.Machine
end

