-- ==== Sys2Proof/Syntax.lean ====
section
/-! DEFINITION. The 24 commands of the core, one constructor per row of the opcode map (`30_encoding.md` R103),
with the operand fields of rules R101 and R104. A field the encoding fixes at zero is no operand. -/

namespace Sys2Proof

/-- The name of a polynomial register P0..P3: the 2-bit fields D, A and B (`30_encoding.md` R101, R102). -/
abbrev PReg := Fin 4

/-- A command. Counts, sizes and indexes are natural numbers; `Instr.wf` bounds them by their fields. -/
inductive Instr where
  /-- 0x00, `46_encoder.md` R280. -/
  | nop
  /-- 0x01, `40_gf.md` R132. -/
  | gfLog
  /-- 0x02, `40_gf.md` R133. -/
  | gfExp
  /-- 0x10, `41_poly.md` R142: normalize `P[d]` and append `shift` zeros. -/
  | polyNorm (d : PReg) (shift : Nat)
  /-- 0x11, `41_poly.md` R143: `P[d] <- P[a] × P[b]`. -/
  | polyMul (d a b : PReg)
  /-- 0x12, `41_poly.md` R144: `P[d] <- P[a] mod P[b]`. -/
  | polyMod (d a b : PReg)
  /-- 0x13, `41_poly.md` R145: `P[d] <- ` the generator polynomial of degree `n`. -/
  | polyGen (d : PReg) (n : Nat)
  /-- 0x20, `42_segment.md` R165. -/
  | segClassify (seg : Nat)
  /-- 0x21, `42_segment.md` R166. -/
  | segCost (seg : Nat)
  /-- 0x22, `42_segment.md` R168. -/
  | segWrite (seg : Nat)
  /-- 0x28, `43_bitbuffer.md` R180. -/
  | bbClear
  /-- 0x29, `43_bitbuffer.md` R181. -/
  | bbPut (width : Nat)
  /-- 0x2A, `43_bitbuffer.md` R183. -/
  | bbEom (maxBits : Nat)
  /-- 0x2B, `43_bitbuffer.md` R184. -/
  | bbPad (target : Nat)
  /-- 0x30, `44_codeword.md` R204. -/
  | ecInfo
  /-- 0x31, `44_codeword.md` R206. -/
  | rsAssemble
  /-- 0x40, `45_matrix.md` R234. -/
  | mxTemplate
  /-- 0x41, `45_matrix.md` R245. -/
  | mxTrial (mask : Nat) (test : Bool)
  /-- 0x42, `45_matrix.md` R255. -/
  | mxScore (mask : Nat)
  /-- 0x43, `45_matrix.md` R262. -/
  | mxEval
  /-- 0x44, `45_matrix.md` R266. -/
  | mxCommit (mask : Nat) (useBest : Bool)
  /-- 0x45, `45_matrix.md` R268. -/
  | mxRead
  /-- 0x50, `46_encoder.md` R283. -/
  | verSelect
  /-- 0x51, `46_encoder.md` R284. -/
  | encode
  deriving DecidableEq, Repr

end Sys2Proof
end

