-- ==== Sys2Proof/Machine/Operands.lean ====
section
/-! DEFINITION. The operand forms of the commands: signed operands, version operands, polynomial registers, segment
descriptors and payloads, the codeword sequence. -/

namespace Sys2Proof.Machine

/-- `sext_32` (`00_scope.md` R6). -/
def sext32 (w : Word) : Int := w.toInt

/-- The bits of `value` from bit `width - 1` down to bit 0: most significant bit first (`43_bitbuffer.md` R182). -/
def bitsOf (value width : Nat) : List Bool := (List.range width).reverse.map value.testBit

/-- A version operand must lie in 1..40 (`42_segment.md` R161, `44_codeword.md` R203, `45_matrix.md` R234). -/
def checkVersion (v : Nat) : Except ErrCode Unit :=
  if 1 ≤ v ∧ v ≤ Config.maxVersion then .ok () else .error .rangeVersion

/-- The first address of PCOEF[k] (`20_memory.md` R76). -/
def pcoefBase (k : PReg) : Nat := Window.pcoef.base + 0x100 * k.val

/-- `operand(k)` (`41_poly.md` R141): the polynomial held in Pk, exactly as stored. -/
def polyOperand (s : State) (k : PReg) : Except ErrCode (List Byte) :=
  let len := (s.plen.get k).toNat
  if len = 0 then .error .domainEmpty
  else if s.params.polyMax < len then .error .hwPolyLen
  else .ok (s.bytesAt (pcoefBase k) len)

/-- Result write-back (`41_poly.md` R146): `PCOEF[d][0 .. len(r)) <- r`, `PLEN[d] <- len(r)`, nothing else. -/
def writePoly (s : State) (d : PReg) (r : List Byte) : State :=
  { s.setBytes (pcoefBase d) r with plen := s.plen.set d.val (BitVec.ofNat 9 r.length) }

/-- A segment descriptor's three fields (`10_state.md` R46). -/
structure Descriptor where
  offset : Nat
  count : Nat
  mode : Nat
  deriving DecidableEq, Repr

/-- Descriptor `i`: OFFSET = word0[15:0], COUNT = word0[31:16], MODE = word1[3:0], little-endian
(`10_state.md` R46, `20_memory.md` R75). -/
def descriptor (s : State) (i : Nat) : Descriptor :=
  let b := fun k => (s.byteAt (Window.segDesc.base + 8 * i + k)).toNat
  { offset := b 0 + 256 * b 1, count := b 2 + 256 * b 3, mode := b 4 % 16 }

/-- What a descriptor's MODE field asks for: AUTO (0) or an explicit mode; any other code is unknown
(`42_segment.md` R160). -/
def descriptorMode (code : Nat) : Except ErrCode (Option Mode) :=
  match code with
  | 0 => .ok none
  | 1 => .ok (some .numeric)
  | 2 => .ok (some .alphanumeric)
  | 4 => .ok (some .byte)
  | _ => .error .rangeMode

/-- `fetch(i)` (`42_segment.md` R163): the requested mode and the payload bytes. -/
def fetchSegment (s : State) (i : Nat) : Except ErrCode (Option Mode × List Byte) :=
  let d := descriptor s i
  match descriptorMode d.mode with
  | .error e => .error e
  | .ok mode =>
    if s.params.dataMax < d.offset + d.count then .error .hwDataBounds
    else .ok (mode, s.bytesAt (Window.data.base + d.offset) d.count)

/-- The codeword sequence CW[0 .. CWLEN) as bits, most significant bit of each codeword first
(`45_matrix.md` R242). -/
def codewordBits (s : State) : List Bool :=
  (s.bytesAt Window.cw.base s.cwLen.toNat).flatMap fun b => bitsOf b.toNat 8

end Sys2Proof.Machine
end

