-- ==== Sys2Proof/Machine/Bus.lean ====
section
/-! DEFINITION. The host's bus accesses (`20_memory.md`, `70_reset_and_hazards.md` R341, R350-R353): registers,
windows, byte order, bus errors, writes dropped and reads drawn while BUSY. -/

namespace Sys2Proof.Machine

/-! ## Registers -/

/-- The registers of the map (`10_state.md` section 2). -/
inductive Reg where
  | id
  | ctrl
  | status
  | cmd
  | cfg
  | arg0
  | arg1
  | result
  | bitLen
  | cwLen
  | nseg
  | res
  | tplVer
  | finalVer
  | ecInfo
  | best
  | pen (m : Fin 8)
  | plen (k : Fin 4)
  deriving DecidableEq, Repr

/-- The register at an offset; `none` at an unmapped offset (`10_state.md` section 2, `20_memory.md` R73). -/
def regAt (off : Nat) : Option Reg :=
  match off with
  | 0x000 => some .id
  | 0x004 => some .ctrl
  | 0x008 => some .status
  | 0x00C => some .cmd
  | 0x010 => some .cfg
  | 0x014 => some .arg0
  | 0x018 => some .arg1
  | 0x01C => some .result
  | 0x020 => some .bitLen
  | 0x024 => some .cwLen
  | 0x028 => some .nseg
  | 0x02C => some .res
  | 0x030 => some .tplVer
  | 0x034 => some .finalVer
  | 0x038 => some .ecInfo
  | 0x03C => some .best
  | 0x040 => some (.pen 0)
  | 0x044 => some (.pen 1)
  | 0x048 => some (.pen 2)
  | 0x04C => some (.pen 3)
  | 0x050 => some (.pen 4)
  | 0x054 => some (.pen 5)
  | 0x058 => some (.pen 6)
  | 0x05C => some (.pen 7)
  | 0x060 => some (.plen 0)
  | 0x064 => some (.plen 1)
  | 0x068 => some (.plen 2)
  | 0x06C => some (.plen 3)
  | _ => none

/-- The constant ID register (`10_state.md` R21). -/
def idWord : Word := 0x51524307

/-- The register word as stored; ID is hard-wired and CMD reads 0 (`10_state.md` R21, R28, R43). -/
def State.readReg (s : State) : Reg → Word
  | .id => idWord
  | .ctrl => s.ctrlWord
  | .status => s.statusWord
  | .cmd => 0
  | .cfg => s.cfgWord
  | .arg0 => s.arg0
  | .arg1 => s.arg1
  | .result => s.result
  | .bitLen => fieldAt 16 s.bitLen 0
  | .cwLen => fieldAt 16 s.cwLen 0
  | .nseg => fieldAt 5 s.nseg 0
  | .res => s.resWord
  | .tplVer => fieldAt 6 s.tplVer 0
  | .finalVer => fieldAt 6 s.finalVer 0
  | .ecInfo => s.ecInfoWord
  | .best => fieldAt 3 s.best 0
  | .pen m => s.pen.get m
  | .plen k => fieldAt 9 (s.plen.get k) 0

/-- Whether a running command may write the register (`70_reset_and_hazards.md` R353). -/
def Reg.commandWritten : Reg → Bool
  | .result | .bitLen | .cwLen | .res | .tplVer | .finalVer | .ecInfo | .best | .pen _ | .plen _ => true
  | .id | .ctrl | .status | .cmd | .cfg | .arg0 | .arg1 | .nseg => false

/-- The bits of a register that are not reserved; a reserved bit reads 0 (`10_state.md` section 2, R43). -/
def Reg.fields : Reg → Word
  | .id | .cmd | .arg0 | .arg1 | .result | .ecInfo | .pen _ => 0xFFFFFFFF
  | .ctrl => 0x80000003
  | .status => 0x00FFFF0F
  | .cfg => 0x003F033F
  | .bitLen | .cwLen => 0x0000FFFF
  | .nseg => 0x0000001F
  | .res => 0x00070F3F
  | .tplVer | .finalVer => 0x0000003F
  | .best => 0x00000007
  | .plen _ => 0x000001FF

/-- Whether the host's write is dropped, and sets COLL, while BUSY (`70_reset_and_hazards.md` R351). -/
def Reg.droppedWhileBusy : Reg → Bool
  | .cmd | .cfg | .arg0 | .arg1 | .nseg | .plen _ => true
  | .id | .ctrl | .status | .result | .bitLen | .cwLen | .res | .tplVer | .finalVer | .ecInfo | .best | .pen _ =>
    false

/-- A write to CTRL: bit 31 resets the core and nothing is stored; otherwise the enables are
(`10_state.md` R22, `70_reset_and_hazards.md` R341). -/
def State.writeCtrl (s : State) (w : Word) : State :=
  if w.getLsbD 31 then s.softReset else { s with ieDone := w.getLsbD 0, ieErr := w.getLsbD 1 }

/-- A host write that is not dropped. Reserved bits and read-only registers ignore it (`10_state.md` R43); a write to
CMD submits a command (R28). -/
def State.writeReg (s : State) (r : Reg) (w : Word) : State :=
  match r with
  | .ctrl => s.writeCtrl w
  | .status => s.ackStatus (w.getLsbD 1) (w.getLsbD 2) (w.getLsbD 3)
  | .cmd => s.accept w
  | .cfg =>
    { s with cfgVersion := w.extractLsb' 0 6, cfgLevel := w.extractLsb' 8 2, cfgMaxVer := w.extractLsb' 16 6 }
  | .arg0 => { s with arg0 := w }
  | .arg1 => { s with arg1 := w }
  | .nseg => { s with nseg := w.extractLsb' 0 5 }
  | .plen k => { s with plen := s.plen.set k.val (w.extractLsb' 0 9) }
  | .id | .result | .bitLen | .cwLen | .res | .tplVer | .finalVer | .ecInfo | .best | .pen _ => s

/-! ## Windows -/

/-- The windows the host can write (`20_memory.md` R71, R78). -/
def Window.hostWritable : Window → Bool
  | .segDesc | .pcoef | .data => true
  | .expRom | .logRom | .bb | .cw | .tpl | .final | .trial _ => false

/-- The windows a running command may write (`70_reset_and_hazards.md` R353). -/
def Window.commandWritten : Window → Bool
  | .pcoef | .bb | .cw | .tpl | .final | .trial _ => true
  | .expRom | .logRom | .segDesc | .data => false

/-- The byte a host read finds: while BUSY, any value where the running command may write
(`70_reset_and_hazards.md` R353). -/
def State.hostByte (s : State) (w : Window) (a : Nat) : Byte :=
  if s.busy && w.commandWritten && Memory.writable a then Config.busyByte s.draws.reads a else s.byteAt a

/-- Bytes as a bus value, the byte at the lowest address in bits [7:0] (`20_memory.md` R75). DESIGN CHOICE: the bits
above the bytes moved are 0; R75 leaves the data lines above an 8- or 16-bit read open (log entry 10). -/
def leWord : List Byte → Word
  | [] => 0
  | b :: rest => b.setWidth 32 ||| (leWord rest <<< 8)

/-- A bus value as bytes, bits [7:0] first (`20_memory.md` R75). -/
def leBytes : Nat → Word → List Byte
  | 0, _ => []
  | n + 1, w => w.extractLsb' 0 8 :: leBytes n (w >>> 8)

/-! ## Accesses -/

/-- The core's address of a bus address: the offset from QRC_BASE (`20_memory.md` R71). DESIGN CHOICE: R71 bounds the
base nowhere, so every 24-bit base is allowed and base plus address wraps modulo 2^24 (log entry 11). -/
def State.busOffset (s : State) (addr : BitVec 24) : Nat := (addr - s.params.qrcBase).toNat

/-- What an access reaches (`20_memory.md` R71-R74). -/
inductive Target where
  | reg (r : Reg)
  | window (w : Window)
  | busError
  deriving DecidableEq, Repr

/-- Decodes an access: a register takes an aligned 32-bit access, a window an access aligned to its size, and
everything else is a bus error (`20_memory.md` R72-R74). DESIGN CHOICE: `a` is the offset from QRC_BASE, so under a base
that is no multiple of 4 alignment is that of the offset, not of the bus address (log entry 11). -/
def targetOf (width : Width) (a : Nat) : Target :=
  if a % width.bytes ≠ 0 then .busError
  else if a < 0x000100 then
    match width, regAt a with
    | .word, some r => .reg r
    | _, _ => .busError
  else
    match windowOf a with
    | some w => .window w
    | none => .busError

/-- The bus error response: no effect, 0 on the data lines (`20_memory.md` R72-R74, `60_exceptions.md` R308). -/
def busErrorResponse : BusResponse := { data := 0, error := true }

/-- The response to a write. DESIGN CHOICE: 0 on the data lines, of which no rule speaks (log entry 10). -/
def writeResponse : BusResponse := { data := 0, error := false }

/-- The word a host read of a register finds: while BUSY, any value where the running command may write, in the bits
that are not reserved (`70_reset_and_hazards.md` R353, `10_state.md` R43). -/
def State.hostReg (s : State) (r : Reg) (a : Nat) : Word :=
  if s.busy && r.commandWritten then
    leWord ((List.range 4).map fun i => Config.busyByte s.draws.reads (a + i)) &&& r.fields
  else s.readReg r

/-- What a read returns; above the width of a narrow read, 0 (DESIGN CHOICE, log entry 10). No read changes the core
(`20_memory.md` R79). -/
def State.readResponse (s : State) (width : Width) (addr : BitVec 24) : BusResponse :=
  let a := s.busOffset addr
  match targetOf width a with
  | .busError => busErrorResponse
  | .reg r => { data := s.hostReg r a, error := false }
  | .window w =>
    { data := leWord ((List.range width.bytes).map fun i => s.hostByte w (a + i)), error := false }

/-- A host read: the response, and the next index of the reads' free values. -/
def State.hostRead (s : State) (width : Width) (addr : BitVec 24) : State :=
  { s with
    response := some (s.readResponse width addr)
    draws := if s.busy then { s.draws with reads := s.draws.reads + 1 } else s.draws }

/-- A dropped write: it stores nothing, submits nothing, and sets COLL (`70_reset_and_hazards.md` R351). -/
def State.collide (s : State) : State := { s with coll := true }

/-- The effect of a write on the core (`20_memory.md` R78, R79; `70_reset_and_hazards.md` R351). -/
def State.writeEffect (s : State) (width : Width) (a : Nat) (value : Word) : State :=
  match targetOf width a with
  | .busError => s
  | .reg r => if s.busy && r.droppedWhileBusy then s.collide else s.writeReg r value
  | .window w =>
    if w.hostWritable then
      if s.busy then s.collide else s.setBytes a (leBytes width.bytes value)
    else s

/-- A host write: its effect and its response. -/
def State.hostWrite (s : State) (width : Width) (addr : BitVec 24) (value : Word) : State :=
  let a := s.busOffset addr
  { s.writeEffect width a value with
    response := some (if targetOf width a = .busError then busErrorResponse else writeResponse) }

/-- The address of STATUS. -/
def State.statusAddr (s : State) : BitVec 24 := s.params.qrcBase + 0x008

/-- One action of the host, the oldest in its queue. WAIT reads STATUS and stays while BUSY reads 1
(`30_encoding.md` R107). -/
def State.hostStep (s : State) : State :=
  match s.hostQueue with
  | [] => s
  | .read width addr :: rest => { s with hostQueue := rest }.hostRead width addr
  | .write width addr value :: rest => { s with hostQueue := rest }.hostWrite width addr value
  | .wait :: rest => { s with hostQueue := if s.busy then s.hostQueue else rest }.hostRead .word s.statusAddr

end Sys2Proof.Machine
end

