-- ==== Sys2Proof/WellFormed.lean ====
section
/-! DEFINITION. The bounds the encoding puts on a command's operands (`30_encoding.md` R101, R102, R104). -/

namespace Sys2Proof

/-- Every operand fits its field: the 16-bit value operands SHIFT, N, WIDTH, MAXBITS and TARGET, and the 4-bit
SEG and MASK. MASK values 8..15 are well-formed encodings (`30_encoding.md` R104); they fail when executed. -/
def Instr.wf : Instr → Bool
  | .nop | .gfLog | .gfExp | .bbClear | .ecInfo | .rsAssemble | .mxTemplate | .mxEval | .mxRead
  | .verSelect | .encode => true
  | .polyMul _ _ _ | .polyMod _ _ _ => true
  | .polyNorm _ shift => shift < 65536
  | .polyGen _ n => n < 65536
  | .segClassify seg | .segCost seg | .segWrite seg => seg < 16
  | .bbPut width => width < 65536
  | .bbEom maxBits => maxBits < 65536
  | .bbPad target => target < 65536
  | .mxTrial mask _ | .mxScore mask | .mxCommit mask _ => mask < 16

end Sys2Proof
end

