-- ==== Sys2Proof/Decode.lean ====
section
/-! DEFINITION. Decoding a command word (`30_encoding.md` R100-R106) and, after it, the encoder of R109.
Commands are the data of writes to CMD, one 32-bit word each, so the decoder reads a word and never a byte stream. -/

namespace Sys2Proof

/-- Why a command word is illegal (`30_encoding.md` R105, R106). All three are ERR_ILLEGAL when executed. -/
inductive DecodeError where
  /-- The opcode is not in the table of R103. -/
  | unassignedOpcode (op : Byte)
  /-- A must-be-zero field of the format (R101) is not zero. -/
  | mbzNotZero (op : Byte)
  /-- A field that R104 requires to be zero for this opcode is not zero. -/
  | fieldConstraint (op : Byte)
  deriving DecidableEq, Repr

namespace Decode

/-- OP = w[7:0] (`30_encoding.md` R101). -/
def op (w : Word) : Byte := w.extractLsb' 0 8

/-- IMM16 = w[31:16], read unsigned (`30_encoding.md` R102). -/
def imm16 (w : Word) : Nat := (w.extractLsb' 16 16).toNat

/-- The polynomial register fields D = w[9:8], A = w[11:10], B = w[13:12] (`30_encoding.md` R101). -/
def regD (w : Word) : PReg := (w.extractLsb' 8 2).toFin
def regA (w : Word) : PReg := (w.extractLsb' 10 2).toFin
def regB (w : Word) : PReg := (w.extractLsb' 12 2).toFin

/-- IMM16[3:0]: SEG or MASK (`30_encoding.md` R104). -/
def imm4 (w : Word) : Nat := (w.extractLsb' 16 4).toNat

/-- Format N: w[31:8] must be zero. -/
def formatN (w : Word) (i : Instr) : Except DecodeError Instr :=
  if w.extractLsb' 8 24 = 0 then .ok i else .error (.mbzNotZero (op w))

/-- Format I: w[15:8] must be zero; then `ok` is the opcode's own field constraint of R104. -/
def formatI (w : Word) (ok : Bool) (i : Instr) : Except DecodeError Instr :=
  if w.extractLsb' 8 8 = 0 then
    if ok then .ok i else .error (.fieldConstraint (op w))
  else .error (.mbzNotZero (op w))

/-- Format P: w[15:14] must be zero; then `ok` is the opcode's own field constraint of R104. -/
def formatP (w : Word) (ok : Bool) (i : Instr) : Except DecodeError Instr :=
  if w.extractLsb' 14 2 = 0 then
    if ok then .ok i else .error (.fieldConstraint (op w))
  else .error (.mbzNotZero (op w))

end Decode

open Decode in
/-- Decodes a command word (`30_encoding.md` R105). Total: a word is one command or is refused by name. -/
def decode (w : Word) : Except DecodeError Instr :=
  match (op w).toNat with
  | 0x00 => formatN w .nop
  | 0x01 => formatN w .gfLog
  | 0x02 => formatN w .gfExp
  | 0x10 => formatP w (w.extractLsb' 10 4 = 0) (.polyNorm (regD w) (imm16 w))
  | 0x11 => formatP w (imm16 w = 0) (.polyMul (regD w) (regA w) (regB w))
  | 0x12 => formatP w (imm16 w = 0) (.polyMod (regD w) (regA w) (regB w))
  | 0x13 => formatP w (w.extractLsb' 10 4 = 0) (.polyGen (regD w) (imm16 w))
  | 0x20 => formatI w (w.extractLsb' 20 12 = 0) (.segClassify (imm4 w))
  | 0x21 => formatI w (w.extractLsb' 20 12 = 0) (.segCost (imm4 w))
  | 0x22 => formatI w (w.extractLsb' 20 12 = 0) (.segWrite (imm4 w))
  | 0x28 => formatN w .bbClear
  | 0x29 => formatI w true (.bbPut (imm16 w))
  | 0x2A => formatI w true (.bbEom (imm16 w))
  | 0x2B => formatI w true (.bbPad (imm16 w))
  | 0x30 => formatN w .ecInfo
  | 0x31 => formatN w .rsAssemble
  | 0x40 => formatN w .mxTemplate
  | 0x41 => formatI w (w.extractLsb' 20 4 = 0 && w.extractLsb' 25 7 = 0) (.mxTrial (imm4 w) (w.getLsbD 24))
  | 0x42 => formatI w (w.extractLsb' 20 12 = 0) (.mxScore (imm4 w))
  | 0x43 => formatN w .mxEval
  | 0x44 => formatI w (w.extractLsb' 21 11 = 0) (.mxCommit (imm4 w) (w.getLsbD 20))
  | 0x45 => formatN w .mxRead
  | 0x50 => formatN w .verSelect
  | 0x51 => formatN w .encode
  | _ => .error (.unassignedOpcode (op w))

/-- `enc_N(op) = op` (`30_encoding.md` R109). -/
def encN (op : Nat) : Word := BitVec.ofNat 32 op

/-- `enc_I(op, imm16) = (imm16 << 16) | op` (`30_encoding.md` R109). -/
def encI (op imm : Nat) : Word := BitVec.ofNat 32 ((imm <<< 16) ||| op)

/-- `enc_P(op, d, a, b, imm) = (imm << 16) | (b << 12) | (a << 10) | (d << 8) | op` (`30_encoding.md` R109). -/
def encP (op : Nat) (d a b : PReg) (imm : Nat) : Word :=
  BitVec.ofNat 32 ((imm <<< 16) ||| (b.val <<< 12) ||| (a.val <<< 10) ||| (d.val <<< 8) ||| op)

/-- The command word of a command line (`30_encoding.md` R103, R104, R109). -/
def encode : Instr → Word
  | .nop => encN 0x00
  | .gfLog => encN 0x01
  | .gfExp => encN 0x02
  | .polyNorm d shift => encP 0x10 d 0 0 shift
  | .polyMul d a b => encP 0x11 d a b 0
  | .polyMod d a b => encP 0x12 d a b 0
  | .polyGen d n => encP 0x13 d 0 0 n
  | .segClassify seg => encI 0x20 seg
  | .segCost seg => encI 0x21 seg
  | .segWrite seg => encI 0x22 seg
  | .bbClear => encN 0x28
  | .bbPut width => encI 0x29 width
  | .bbEom maxBits => encI 0x2A maxBits
  | .bbPad target => encI 0x2B target
  | .ecInfo => encN 0x30
  | .rsAssemble => encN 0x31
  | .mxTemplate => encN 0x40
  | .mxTrial mask test => encI 0x41 ((test.toNat <<< 8) ||| mask)
  | .mxScore mask => encI 0x42 mask
  | .mxEval => encN 0x43
  | .mxCommit mask useBest => encI 0x44 ((useBest.toNat <<< 4) ||| mask)
  | .mxRead => encN 0x45
  | .verSelect => encN 0x50
  | .encode => encN 0x51

/-- The command word whose `nbits` low bits are `w`, numbered as the opcode table numbers them; every bit above
`nbits` is 0. -/
def tableWord (nbits w : Nat) : Word := BitVec.ofNat 32 (w % 2 ^ nbits)

/-- The command the decoder reads from an opcode-table word; `none` where it refuses. -/
def decodeTableWord (nbits w : Nat) : Option Instr := (decode (tableWord nbits w)).toOption

end Sys2Proof
end

