-- ==== Sys2Proof/Machine/Gf.lean ====
section
/-! DEFINITION. The GF(256) unit (`40_gf.md`): the primitives `glog` and `gexp`, and GF_LOG, GF_EXP. -/

namespace Sys2Proof.Machine

/-- `glog(n)` (`40_gf.md` R132). -/
def glog (n : Nat) : Except ErrCode Nat :=
  if n < 1 ∨ 255 < n then .error .domainLog else .ok (logRom n).toNat

/-- `gexp(n)`: the exponent is the Euclidean remainder mod 255 (`40_gf.md` R133). -/
def gexp (n : Int) : Byte := expRom (n % 255).toNat

/-- GF_LOG's rule (`40_gf.md` R132). -/
def ruleGfLog : Rule := fun s =>
  match glog s.arg0.toNat with
  | .error e => .error e
  | .ok k => .ok { s with result := BitVec.ofNat 32 k }

/-- GF_EXP's rule (`40_gf.md` R133). -/
def ruleGfExp : Rule := fun s => .ok { s with result := (gexp (sext32 s.arg0)).setWidth 32 }

/-- GF_LOG (`40_gf.md` R132). -/
def execGfLog (s : State) : Host.Outcome State Fault Refusal := complete s ruleGfLog

/-- GF_EXP (`40_gf.md` R133). -/
def execGfExp (s : State) : Host.Outcome State Fault Refusal := complete s ruleGfExp

end Sys2Proof.Machine
end

