-- ==== Sys2Proof/Machine/Poly.lean ====
section
/-! DEFINITION. The polynomial engine (`41_poly.md`): normalization, product, remainder and generator over GF(256),
and POLY_NORM, POLY_MUL, POLY_MOD, POLY_GEN. A polynomial is its coefficients, leading one first (`00_scope.md` R8). -/

namespace Sys2Proof.Machine

/-- The sequence from its first nonzero coefficient on; empty if every one is 0. -/
def stripZeros (p : List Byte) : List Byte := p.dropWhile (· = 0)

/-- `norm(s, shift)` without the length bound (`41_poly.md` R140): strip every leading zero, append `shift` zeros; an
all-zero sequence with shift 0 gives `[0]`. -/
def normBody (p : List Byte) (shift : Nat) : List Byte :=
  let body := stripZeros p ++ List.replicate shift 0
  if body.length = 0 then [0] else body

/-- `norm(s, shift)` (`41_poly.md` R140). The bound `limit`, POLY_MAX, is on the length
`normBody` has. -/
def norm (limit : Nat) (p : List Byte) (shift : Nat) : Except ErrCode (List Byte) :=
  if p.length = 0 then .error .domainEmpty
  else if limit < max 1 ((stripZeros p).length + shift) then .error .hwPolyLen
  else .ok (normBody p shift)

/-- `glog` of every coefficient (`40_gf.md` R134): fails on a zero coefficient. -/
def glogs : List Byte → Except ErrCode (List Nat)
  | [] => .ok []
  | c :: rest =>
    match glog c.toNat, glogs rest with
    | .ok k, .ok ks => .ok (k :: ks)
    | .error e, _ => .error e
    | _, .error e => .error e

/-- Coefficientwise XOR from index 0 on; the longer sequence's further coefficients stay. -/
def xorAlign : List Byte → List Byte → List Byte
  | [], q => q
  | p, [] => p
  | c :: p, d :: q => (c ^^^ d) :: xorAlign p q

/-- The cross terms `num[i+j] ^= gexp(la[i] + lb[j])`, from the logarithms of the coefficients (`41_poly.md` R143). -/
def crossTerms : List Nat → List Nat → List Byte
  | [], _ => []
  | la :: rest, lbs => xorAlign (lbs.map fun (lb : Nat) => gexp (la + lb)) (0 :: crossTerms rest lbs)

/-- The normalized product of two nonempty polynomials, without the length bound (`41_poly.md` R143). -/
def polyProduct (a b : List Byte) : Except ErrCode (List Byte) :=
  match glogs a, glogs b with
  | .ok las, .ok lbs => .ok (normBody (crossTerms las lbs) 0)
  | .error e, _ => .error e
  | _, .error e => .error e

/-- POLY_MUL's result: the length bound, then the product (`41_poly.md` R143). -/
def polyMul (limit : Nat) (a b : List Byte) : Except ErrCode (List Byte) :=
  if limit < a.length + b.length - 1 then .error .hwPolyLen else polyProduct a b

/-- One iteration of the modulo loop on a dividend that is not shorter than the divisor (`41_poly.md` R144):
`t[k] = s[k] ^ gexp(glog(dv[k]) + ratio)`, then `norm(t, 0)`. -/
def polyModStep (s dv : List Byte) : Except ErrCode (List Byte) :=
  match glog (s.headD 0).toNat, glogs dv with
  | .ok ls, .ok lds =>
    let ratio : Int := ls - lds.headD 0
    .ok (normBody (xorAlign s (lds.map fun (ld : Nat) => gexp (ld + ratio))) 0)
  | .error e, _ => .error e
  | _, .error e => .error e

/-- The modulo loop (`41_poly.md` R144). Each iteration removes a coefficient or reaches `[0]`, so the dividend's
length bounds the iterations. -/
def polyModLoop : Nat → List Byte → List Byte → Except ErrCode (List Byte)
  | 0, s, _ => .ok s
  | fuel + 1, s, dv =>
    if s.length < dv.length ∨ s = [0] then .ok s
    else
      match polyModStep s dv with
      | .error e => .error e
      | .ok t => polyModLoop fuel t dv

/-- `s mod dv` (`41_poly.md` R144). -/
def polyMod (s dv : List Byte) : Except ErrCode (List Byte) := polyModLoop (s.length + 1) s dv

/-- The generator's product `[1] × [1, gexp(0)] × ... × [1, gexp(n-1)]` (`41_poly.md` R145). -/
def generator : Nat → Except ErrCode (List Byte)
  | 0 => .ok [1]
  | n + 1 =>
    match generator n with
    | .error e => .error e
    | .ok g => polyProduct g [1, gexp n]

/-- POLY_NORM's rule (`41_poly.md` R142). -/
def rulePolyNorm (d : PReg) (shift : Nat) : Rule := fun s =>
  match polyOperand s d with
  | .error e => .error e
  | .ok p =>
    match norm s.params.polyMax p shift with
    | .error e => .error e
    | .ok r => .ok (writePoly s d r)

/-- POLY_MUL's rule (`41_poly.md` R143). -/
def rulePolyMul (d a b : PReg) : Rule := fun s =>
  match polyOperand s a with
  | .error e => .error e
  | .ok p =>
    match polyOperand s b with
    | .error e => .error e
    | .ok q =>
      match polyMul s.params.polyMax p q with
      | .error e => .error e
      | .ok r => .ok (writePoly s d r)

/-- POLY_MOD's rule (`41_poly.md` R144). -/
def rulePolyMod (d a b : PReg) : Rule := fun s =>
  match polyOperand s a with
  | .error e => .error e
  | .ok p =>
    match polyOperand s b with
    | .error e => .error e
    | .ok q =>
      match polyMod p q with
      | .error e => .error e
      | .ok r => .ok (writePoly s d r)

/-- POLY_GEN's rule (`41_poly.md` R145). -/
def rulePolyGen (d : PReg) (n : Nat) : Rule := fun s =>
  if s.params.polyMax < n + 1 then .error .hwPolyLen
  else
    match generator n with
    | .error e => .error e
    | .ok g => .ok (writePoly s d g)

/-- POLY_NORM (`41_poly.md` R142). -/
def execPolyNorm (d : PReg) (shift : Nat) (s : State) : Host.Outcome State Fault Refusal :=
  complete s (rulePolyNorm d shift)

/-- POLY_MUL (`41_poly.md` R143). -/
def execPolyMul (d a b : PReg) (s : State) : Host.Outcome State Fault Refusal :=
  complete s (rulePolyMul d a b)

/-- POLY_MOD (`41_poly.md` R144). -/
def execPolyMod (d a b : PReg) (s : State) : Host.Outcome State Fault Refusal :=
  complete s (rulePolyMod d a b)

/-- POLY_GEN (`41_poly.md` R145). -/
def execPolyGen (d : PReg) (n : Nat) (s : State) : Host.Outcome State Fault Refusal :=
  complete s (rulePolyGen d n)

end Sys2Proof.Machine
end

