-- ==== Sys2Proof/Machine/Codeword.lean ====
section
/-! DEFINITION. The error-correction table and the codeword assembler (`44_codeword.md`), and EC_INFO, RS_ASSEMBLE. -/

namespace Sys2Proof.Machine

/-- A Reed-Solomon block (`44_codeword.md` R200). -/
structure Block where
  total : Nat
  data : Nat
  deriving DecidableEq, Repr

/-- error_codewords = total − data. DESIGN CHOICE: 0 where a row has more data than codewords (log entry 15). -/
def Block.error (b : Block) : Nat := b.total - b.data

/-- The blocks of a row of EC_TABLE: group 1's first, then group 2's (`44_codeword.md` R200). -/
def expandGroups (groups : List EcGroup) : List Block :=
  groups.flatMap fun g => List.replicate g.count { total := g.total, data := g.data }

/-- `ec_lookup(v, lvl)` (`44_codeword.md` R203). -/
def ecLookup (p : Params) (v : Nat) (lvl : BitVec 2) : Except ErrCode (List Block) :=
  match checkVersion v with
  | .error e => .error e
  | .ok () => .ok (expandGroups (p.ecGroups v lvl))

/-- `8 · Σ data_codewords` of a block sequence (`44_codeword.md` R202). -/
def capacity (blocks : List Block) : Nat := 8 * (blocks.map Block.data).sum

/-- `MAXBITS(v, level)` (`44_codeword.md` R202); 0 outside the table, where no rule asks for it. -/
def maxBits (p : Params) (v : Nat) (lvl : BitVec 2) : Nat :=
  match ecLookup p v lvl with
  | .error _ => 0
  | .ok blocks => capacity blocks

/-- The total codeword count of a block sequence. -/
def totalCodewords (blocks : List Block) : Nat := (blocks.map Block.total).sum

/-- ECINFO <- {NBLOCKS, ECPB of the first block, TOTAL} (`10_state.md` R39). DESIGN CHOICE: a number wider than its field,
which no default row has, keeps its low bits, and the ECPB of no block is 0 (log entry 15). -/
def writeEcInfo (s : State) (blocks : List Block) : State :=
  { s with
    ecNBlocks := BitVec.ofNat 8 blocks.length
    ecEcpb := BitVec.ofNat 8 ((blocks.map Block.error).headD 0)
    ecTotal := BitVec.ofNat 16 (totalCodewords blocks) }

/-- Splits bytes across the blocks in order, `data` bytes each (`44_codeword.md` R206). -/
def splitData : List Block → List Byte → List (List Byte)
  | [], _ => []
  | b :: rest, bytes => bytes.take b.data :: splitData rest (bytes.drop b.data)

/-- A block's error codewords: the remainder of the data polynomial with `e` zeros appended, modulo the generator of
degree `e`, right-aligned to `e` codewords (`44_codeword.md` R206). -/
def errorCodewords (data : List Byte) (e : Nat) : Except ErrCode (List Byte) :=
  match generator e with
  | .error x => .error x
  | .ok g =>
    match polyMod (normBody data e) g with
    | .error x => .error x
    | .ok rem => .ok (List.replicate (e - rem.length) 0 ++ rem)

/-- Every block's error codewords, in block order. -/
def allErrorCodewords : List Block → List (List Byte) → Except ErrCode (List (List Byte))
  | b :: bs, d :: ds =>
    match errorCodewords d b.error, allErrorCodewords bs ds with
    | .ok c, .ok cs => .ok (c :: cs)
    | .error x, _ => .error x
    | _, .error x => .error x
  | _, _ => .ok []

/-- Position by position over the blocks, skipping a block shorter than the position (`44_codeword.md` R207). -/
def interleaveLists (ls : List (List Byte)) : List Byte :=
  (List.range ((ls.map List.length).foldl max 0)).flatMap fun i => ls.filterMap fun l => l[i]?

/-- `interleave(D, E)` (`44_codeword.md` R207). -/
def interleave (d e : List (List Byte)) : List Byte := interleaveLists d ++ interleaveLists e

/-- EC_INFO's rule (`44_codeword.md` R204). -/
def ruleEcInfo : Rule := fun s =>
  match ecLookup s.params s.arg0.toNat s.cfgLevel with
  | .error e => .error e
  | .ok blocks => .ok { writeEcInfo s blocks with result := BitVec.ofNat 32 (capacity blocks) }

/-- RS_ASSEMBLE's rule (`44_codeword.md` R206). -/
def ruleRsAssemble : Rule := fun s =>
  match ecLookup s.params s.resVersion.toNat s.cfgLevel with
  | .error e => .error e
  | .ok blocks =>
    if capacity blocks < s.bitLen.toNat then .error .capOverflow
    else if s.bitLen.toNat < capacity blocks then .error .hwNotPadded
    else
      let data := splitData blocks (s.bytesAt Window.bb.base (capacity blocks / 8))
      match allErrorCodewords blocks data with
      | .error e => .error e
      | .ok ecs =>
        .ok { writeEcInfo (s.storeCw (interleave data ecs)) blocks with
              cwLen := BitVec.ofNat 16 (totalCodewords blocks) }

/-- EC_INFO (`44_codeword.md` R204). -/
def execEcInfo (s : State) : Host.Outcome State Fault Refusal := complete s ruleEcInfo

/-- RS_ASSEMBLE (`44_codeword.md` R206). -/
def execRsAssemble (s : State) : Host.Outcome State Fault Refusal := complete s ruleRsAssemble

end Sys2Proof.Machine
end

