-- ==== Sys2Proof/Machine/Matrix.lean ====
section
/-! DEFINITION. The symbol-matrix placer and the penalty scorers (`45_matrix.md`), and MX_TEMPLATE, MX_TRIAL,
MX_SCORE, MX_EVAL, MX_COMMIT, MX_READ. -/

namespace Sys2Proof.Machine

/-! ## Template phase -/

/-- DARK or LIGHT. -/
def cellOf (dark : Bool) : Byte := if dark then cellDark else cellLight

/-- Sets the cell at integer coordinates; one outside the symbol is left alone, as R231 says of a finder's separator. For
an alignment pattern that is a DESIGN CHOICE (log entry 14). -/
def Grid.setAt (g : Grid) (r c : Int) (v : Byte) : Grid :=
  if 0 ≤ r ∧ 0 ≤ c then g.set r.toNat c.toNat v else g

/-- Sets cells in order. -/
def Grid.setAll (g : Grid) (writes : List (Int × Int × Byte)) : Grid :=
  writes.foldl (fun g w => g.setAt w.1 w.2.1 w.2.2) g

/-- The n × n matrix of UNSET cells. -/
def blankGrid (n : Nat) : Grid := List.replicate n (List.replicate n cellUnset)

/-- The cell at offset `(i, j)` of a finder pattern: ring, inner ring, core; LIGHT in the separator
(`45_matrix.md` R231). -/
def finderCell (i j : Int) : Byte :=
  if 0 ≤ i ∧ i ≤ 6 ∧ 0 ≤ j ∧ j ≤ 6 then
    if i = 0 ∨ i = 6 ∨ j = 0 ∨ j = 6 then cellDark
    else if 2 ≤ i ∧ i ≤ 4 ∧ 2 ≤ j ∧ j ≤ 4 then cellDark
    else cellLight
  else cellLight

/-- The integers `lo .. lo + count - 1`. -/
def intRange (lo : Int) (count : Nat) : List Int := (List.range count).map fun (k : Nat) => lo + k

/-- A finder pattern at `(r0, c0)` with its separator: offsets −1..7 (`45_matrix.md` R231). -/
def finderWrites (r0 c0 : Int) : List (Int × Int × Byte) :=
  (intRange (-1) 9).flatMap fun i => (intRange (-1) 9).map fun j => (r0 + i, c0 + j, finderCell i j)

/-- The three finder patterns of an n × n symbol (`45_matrix.md` R231). -/
def placeFinders (n : Nat) (g : Grid) : Grid :=
  g.setAll (finderWrites 0 0 ++ finderWrites (n - 7) 0 ++ finderWrites 0 (n - 7))

/-- The 5 × 5 alignment pattern centred at `(r0, c0)` (`45_matrix.md` R233). -/
def alignmentWrites (r0 c0 : Int) : List (Int × Int × Byte) :=
  (intRange (-2) 5).flatMap fun i => (intRange (-2) 5).map fun j =>
    (r0 + i, c0 + j, cellOf (i.natAbs = 2 || j.natAbs = 2 || (i = 0 && j = 0)))

/-- One alignment pattern, skipped whole where its centre is already assigned (`45_matrix.md` R233,
`90_conflicts.md` C8). DESIGN CHOICE: a centre outside the symbol counts as UNSET, and of a pattern that passes the
symbol's edge only the cells inside are set; no default ALIGN_POS has one (log entry 14). -/
def placeAlignment (g : Grid) (centre : Nat × Nat) : Grid :=
  if g.get centre.1 centre.2 = cellUnset then g.setAll (alignmentWrites centre.1 centre.2) else g

/-- Every pair of ALIGN_POS(v), rows outer, columns inner (`45_matrix.md` R233). -/
def placeAlignments (p : Params) (v : Nat) (g : Grid) : Grid :=
  ((p.alignments v).flatMap fun r0 => (p.alignments v).map fun c0 => (r0, c0)).foldl placeAlignment g

/-- Sets a cell only where it is UNSET. -/
def Grid.setUnset (g : Grid) (r c : Nat) (v : Byte) : Grid :=
  if g.get r c = cellUnset then g.set r c v else g

/-- The timing patterns: indices 8 .. n − 9 of column 6 and row 6, DARK where even (`45_matrix.md` R236). -/
def placeTiming (n : Nat) (g : Grid) : Grid :=
  (List.range' 8 (n - 16)).foldl
    (fun g i => (g.setUnset i 6 (cellOf (i % 2 = 0))).setUnset 6 i (cellOf (i % 2 = 0))) g

/-- The template for version `v`: finders and separators, alignment, timing (`45_matrix.md` R234). -/
def template (p : Params) (v : Nat) : Grid :=
  placeTiming (moduleCount v) (placeAlignments p v (placeFinders (moduleCount v) (blankGrid (moduleCount v))))

/-- MX_TEMPLATE's rule (`45_matrix.md` R234). -/
def ruleMxTemplate : Rule := fun s =>
  match checkVersion s.resVersion.toNat with
  | .error e => .error e
  | .ok () => .ok { s.storeTpl (template s.params s.resVersion.toNat) with tplVer := s.resVersion }

/-! ## Trial phase -/

/-- The remainder of `x`, of at most `bits` bits, by the generator `g`, as polynomials over GF(2) (`45_matrix.md` R238,
R241). DESIGN CHOICE: a generator 0, which divides nothing, leaves `x` (log entry 15). -/
def gf2Rem (g bits x : Nat) : Nat :=
  (List.range' g.log2 (bits - g.log2)).reverse.foldl
    (fun acc i => if acc.testBit i then acc ^^^ (g <<< (i - g.log2)) else acc) x

/-- `fmt(level, m)` (`45_matrix.md` R238). -/
def formatInfo (p : Params) (lvl : BitVec 2) (m : Nat) : Nat :=
  let d := (lvl.toNat <<< 3) ||| m
  ((d <<< 10) ||| gf2Rem p.g15 15 (d <<< 10)) ^^^ p.g15Mask

/-- The row of bit `i` in the vertical copy of the format information, column 8 (`45_matrix.md` R239). -/
def formatRow (n i : Nat) : Nat := if i ≤ 5 then i else if i ≤ 7 then i + 1 else n - 15 + i

/-- The column of bit `i` in the horizontal copy, row 8 (`45_matrix.md` R239). -/
def formatCol (n i : Nat) : Nat := if i ≤ 7 then n - 1 - i else if i = 8 then 7 else 14 - i

/-- The format information; a test trial places every bit LIGHT (`45_matrix.md` R239). -/
def placeFormat (n fmt : Nat) (test : Bool) (g : Grid) : Grid :=
  (List.range 15).foldl
    (fun g i =>
      (g.set (formatRow n i) 8 (cellOf (!test && fmt.testBit i))).set 8 (formatCol n i)
        (cellOf (!test && fmt.testBit i))) g

/-- The fixed module at `(n − 8, 8)`: DARK, in a test trial TRIAL_DARK_MODULE (`45_matrix.md` R240). -/
def placeDarkModule (p : Params) (n : Nat) (test : Bool) (g : Grid) : Grid :=
  g.set (n - 8) 8 (cellOf (!test || p.trialDarkModule))

/-- `ver(v)` (`45_matrix.md` R241). -/
def versionInfo (p : Params) (v : Nat) : Nat := (v <<< 12) ||| gf2Rem p.g18 18 (v <<< 12)

/-- The version information, for `v ≥ 7` only (`45_matrix.md` R241). -/
def placeVersion (p : Params) (v n : Nat) (test : Bool) (g : Grid) : Grid :=
  if 7 ≤ v then
    (List.range 18).foldl
      (fun g i =>
        (g.set (i / 3) (n - 11 + i % 3) (cellOf (!test && (versionInfo p v).testBit i))).set
          (n - 11 + i % 3) (i / 3) (cellOf (!test && (versionInfo p v).testBit i))) g
  else g

/-- `mask_m(r, c)` (`45_matrix.md` R243). -/
def maskBit (m r c : Nat) : Bool :=
  match m with
  | 0 => (r + c) % 2 = 0
  | 1 => r % 2 = 0
  | 2 => c % 3 = 0
  | 3 => (r + c) % 3 = 0
  | 4 => (r / 2 + c / 3) % 2 = 0
  | 5 => (r * c) % 2 + (r * c) % 3 = 0
  | 6 => ((r * c) % 2 + (r * c) % 3) % 2 = 0
  | 7 => ((r * c) % 3 + (r + c) % 2) % 2 = 0
  | _ => false

/-- The right columns of the column pairs, from the right edge on; the pair that would start at column 6 starts at
column 5 (`45_matrix.md` R242). -/
def pairColumns : Nat → Nat → List Nat
  | 0, _ => []
  | fuel + 1, col =>
    if col = 0 then []
    else
      let right := if col = 6 then 5 else col
      right :: pairColumns fuel (right - 2)

/-- The cells in the order of the sweep: column pairs from the right, the first upward and then alternating, the
right cell of a row before the left (`45_matrix.md` R242). -/
def sweep (n : Nat) : List (Nat × Nat) :=
  (pairColumns n (n - 1)).zipIdx.flatMap fun (col, k) =>
    (if k % 2 = 0 then (List.range n).reverse else List.range n).flatMap fun r => [(r, col), (r, col - 1)]

/-- `place_data` over the cells of the sweep: each cell still UNSET takes the next codeword bit, inverted where the
mask says; past the codewords the bit is 0 (`45_matrix.md` R242). -/
def placeData (m : Nat) : List (Nat × Nat) → List Bool → Grid → Grid
  | [], _, g => g
  | (r, c) :: rest, bits, g =>
    if g.get r c = cellUnset then
      placeData m rest bits.tail (g.set r c (cellOf (bits.headD false ^^ maskBit m r c)))
    else placeData m rest bits g

/-- `trial(m, test)` of a template for version `v` (`45_matrix.md` R244). -/
def trialGrid (p : Params) (v : Nat) (lvl : BitVec 2) (codewords : List Bool) (m : Nat) (test : Bool) (tpl : Grid) : Grid :=
  let n := moduleCount v
  placeData m (sweep n) codewords
    (placeVersion p v n test (placeDarkModule p n test (placeFormat n (formatInfo p lvl m) test tpl)))

/-- `trial(m, test)` from TPL, TPLVER, CW, CWLEN and CFG.LEVEL as they stand (`45_matrix.md` R235, R244). -/
def trial (s : State) (m : Nat) (test : Bool) : Grid :=
  trialGrid s.params s.tplVer.toNat s.cfgLevel (codewordBits s) m test (s.matrixAt .tpl (moduleCount s.tplVer.toNat))

/-- The check of MX_TRIAL, MX_SCORE and MX_COMMIT: a template, then a mask index in 0..7 (`45_matrix.md` R245). -/
def checkTrial (s : State) (m : Nat) : Except ErrCode Unit :=
  if s.tplVer = 0 then .error .hwNoTemplate
  else if 7 < m then .error .rangeMask
  else .ok ()

/-- MX_TRIAL's rule (`45_matrix.md` R245). -/
def ruleMxTrial (mask : Nat) (test : Bool) : Rule := fun s =>
  match checkTrial s mask with
  | .error e => .error e
  | .ok () => .ok (s.storeTrial mask (trial s mask test))

/-! ## Penalty scoring -/

/-- The colours of a matrix's rows: true is DARK, every byte but DARK is LIGHT (`45_matrix.md` R230). -/
def colours (g : Grid) : List (List Bool) := g.map fun row => row.map (· = cellDark)

/-- The columns of an n × n table of colours. -/
def columnsOf (n : Nat) (rows : List (List Bool)) : List (List Bool) :=
  (List.range n).map fun c => rows.map fun row => row.getD c false

/-- The lengths of the maximal runs, after `k` cells of colour `c`. -/
def runsFrom (c : Bool) (k : Nat) : List Bool → List Nat
  | [] => [k]
  | x :: rest => if x = c then runsFrom c (k + 1) rest else k :: runsFrom x 1 rest

/-- The lengths of the maximal runs of one colour in a line. -/
def runLengths : List Bool → List Nat
  | [] => []
  | x :: rest => runsFrom x 1 rest

/-- Rule (a) on one line: a maximal run of length L ≥ 5 adds 3 + (L − 5) (`45_matrix.md` R250). -/
def runPenalty (line : List Bool) : Nat :=
  ((runLengths line).map fun len => if 5 ≤ len then 3 + (len - 5) else 0).sum

/-- Rule (b) on two adjacent rows: every 2 × 2 block of one colour adds 3 (`45_matrix.md` R250). -/
def blockPenalty : List Bool → List Bool → Nat
  | a :: b :: upper, c :: d :: lower =>
    (if a = b ∧ c = d ∧ a = c then 3 else 0) + blockPenalty (b :: upper) (d :: lower)
  | _, _ => 0

/-- Rule (b) over the rows. -/
def blocksPenalty : List (List Bool) → Nat
  | upper :: lower :: rest => blockPenalty upper lower + blocksPenalty (lower :: rest)
  | _ => 0

/-- 10111010000: the finder-like pattern followed by four LIGHT cells. -/
def finderThenLight : List Bool := [true, false, true, true, true, false, true, false, false, false, false]

/-- 00001011101: four LIGHT cells, then the finder-like pattern. -/
def lightThenFinder : List Bool := [false, false, false, false, true, false, true, true, true, false, true]

/-- Rule (c) on one line: each of its windows of 11 cells that equals one of the patterns adds 40
(`45_matrix.md` R250). -/
def finderPenalty : List Bool → Nat
  | [] => 0
  | x :: rest =>
    (if (x :: rest).take 11 = finderThenLight ∨ (x :: rest).take 11 = lightThenFinder then 40 else 0)
      + finderPenalty rest

/-- Rule (d): `floor(|100·d − 50·n²| / (5·n²)) · 10` (`45_matrix.md` R250). -/
def darkPenalty (d n : Nat) : Nat :=
  ((100 * d : Int) - 50 * (n * n)).natAbs / (5 * (n * n)) * 10

/-- The number of DARK cells. -/
def darkCount (rows : List (List Bool)) : Nat := (rows.map fun row => row.count true).sum

/-- `score(T)` of an n × n matrix (`45_matrix.md` R250). -/
def score (n : Nat) (g : Grid) : Nat :=
  let rows := colours g
  let lines := rows ++ columnsOf n rows
  (lines.map runPenalty).sum + blocksPenalty rows + (lines.map finderPenalty).sum + darkPenalty (darkCount rows) n

/-- MX_SCORE's rule (`45_matrix.md` R255): TRIAL[m] as it stands, with n from TPLVER. -/
def ruleMxScore (mask : Nat) : Rule := fun s =>
  match checkTrial s mask with
  | .error e => .error e
  | .ok () =>
    let n := moduleCount s.tplVer.toNat
    let p := BitVec.ofNat 32 (score n (s.matrixAt (.trial mask) n))
    .ok { s with pen := s.pen.setIfInBounds mask p, result := p }

/-- `best(PEN)`: the least index of the minimum (`45_matrix.md` R261). -/
def bestMask (pen : Vector Word 8) : Nat :=
  (List.range 8).foldl
    (fun b m => if (pen.toList.getD m 0).toNat < (pen.toList.getD b 0).toNat then m else b) 0

/-- Lane `m` of MX_EVAL, reading `s` and writing TRIAL[m] and PEN[m] of `t` (`45_matrix.md` R262, R263). -/
def evalLane (s t : State) (m : Nat) : State :=
  let g := trial s m true
  { t.storeTrial m g with
    pen := t.pen.setIfInBounds m (BitVec.ofNat 32 (score (moduleCount s.tplVer.toNat) g)) }

/-- MX_EVAL's rule (`45_matrix.md` R262). -/
def ruleMxEval : Rule := fun s =>
  if s.tplVer = 0 then .error .hwNoTemplate
  else
    let t := (List.range 8).foldl (evalLane s) s
    .ok { t with best := BitVec.ofNat 3 (bestMask t.pen) }

/-! ## Commit and output -/

/-- MX_COMMIT's rule (`45_matrix.md` R266): BEST where USE_BEST is set, and the MASK field is then ignored. -/
def ruleMxCommit (mask : Nat) (useBest : Bool) : Rule := fun s =>
  let m := if useBest then s.best.toNat else mask
  match checkTrial s m with
  | .error e => .error e
  | .ok () =>
    .ok { s.storeFinal (trial s m false) with finalVer := s.tplVer, resMask := BitVec.ofNat 3 m }

/-- MX_READ's rule (`45_matrix.md` R268): signed coordinates, an empty matrix while FINALVER = 0. -/
def ruleMxRead : Rule := fun s =>
  let r := sext32 s.arg0
  let c := sext32 s.arg1
  let n : Int := if s.finalVer = 0 then 0 else moduleCount s.finalVer.toNat
  if r < 0 ∨ n ≤ r ∨ c < 0 ∨ n ≤ c then .error .rangeCoord
  else
    let cell := s.byteAt (Window.final.base + r.toNat * Config.mxDim + c.toNat)
    .ok { s with result := if cell = cellDark then 1 else 0 }

/-- MX_TEMPLATE (`45_matrix.md` R234). -/
def execMxTemplate (s : State) : Host.Outcome State Fault Refusal := complete s ruleMxTemplate

/-- MX_TRIAL (`45_matrix.md` R245). -/
def execMxTrial (mask : Nat) (test : Bool) (s : State) : Host.Outcome State Fault Refusal :=
  complete s (ruleMxTrial mask test)

/-- MX_SCORE (`45_matrix.md` R255). -/
def execMxScore (mask : Nat) (s : State) : Host.Outcome State Fault Refusal := complete s (ruleMxScore mask)

/-- MX_EVAL (`45_matrix.md` R262). -/
def execMxEval (s : State) : Host.Outcome State Fault Refusal := complete s ruleMxEval

/-- MX_COMMIT (`45_matrix.md` R266). -/
def execMxCommit (mask : Nat) (useBest : Bool) (s : State) : Host.Outcome State Fault Refusal :=
  complete s (ruleMxCommit mask useBest)

/-- MX_READ (`45_matrix.md` R268). -/
def execMxRead (s : State) : Host.Outcome State Fault Refusal := complete s ruleMxRead

end Sys2Proof.Machine
end

