-- ==== Sys2Proof/Machine/BitBuffer.lean ====
section
/-! DEFINITION. The bit-buffer packer (`43_bitbuffer.md`): the append primitive `put`, and BB_CLEAR, BB_PUT, BB_EOM,
BB_PAD. -/

namespace Sys2Proof.Machine

/-- A byte with bit `j` set to `b`. -/
def setByteBit (v : Byte) (j : Nat) (b : Bool) : Byte :=
  (v &&& ~~~(1#8 <<< j)) ||| (if b then 1#8 <<< j else 0#8)

/-- Appends one bit: `BB[k div 8][7 - (k mod 8)] <- b` for k = BITLEN, then BITLEN + 1 (`43_bitbuffer.md` R182). -/
def State.putBit (s : State) (b : Bool) : State :=
  let k := s.bitLen.toNat
  let a := Window.bb.base + k / 8
  { s with
    mem := Memory.set s.mem a (setByteBit (s.byteAt a) (7 - k % 8) b)
    bitLen := s.bitLen + 1 }

/-- Appends bits, first one first. -/
def State.putBits : State → List Bool → State
  | s, [] => s
  | s, b :: rest => State.putBits (s.putBit b) rest

/-- `put(value, width)` (`43_bitbuffer.md` R182). The caller has checked the room. -/
def State.put (s : State) (value width : Nat) : State := s.putBits (bitsOf value width)

/-- The room check of every append: `BITLEN + count > BB_MAX_BITS` (`43_bitbuffer.md` R181-R184). -/
def bbOverflows (s : State) (count : Nat) : Bool := s.params.bbMaxBits < s.bitLen.toNat + count

/-- The first multiple of 8 at or above `k`. -/
def alignUp8 (k : Nat) : Nat := 8 * ((k + 7) / 8)

/-- The pad codewords 0xEC, 0x11, 0xEC, ... , starting at 0xEC on every call (`43_bitbuffer.md` R184). -/
def padBits (count : Nat) : List Bool :=
  (List.range count).flatMap fun k => bitsOf (if k % 2 = 0 then 0xEC else 0x11) 8

/-- The bytes of BB: those that hold one of its BB_MAX_BITS bits. R48 and R180 write BB_MAX_BITS / 8; DEDUCED from
`43_bitbuffer.md` R185 (a): a size that is no multiple of 8 is rounded up (log entry 13). -/
def Params.bbBytes (p : Params) : Nat := (p.bbMaxBits + 7) / 8

/-- BB_CLEAR's rule (`43_bitbuffer.md` R180): every BB byte 0 (a byte of BB that is not listed reads 0), the last one
whole also where BB_MAX_BITS ends inside it (log entry 13). -/
def ruleBbClear : Rule := fun s =>
  .ok { s with mem := Memory.replace s.mem Window.bb.base s.params.bbBytes [], bitLen := 0 }

/-- BB_PUT's rule (`43_bitbuffer.md` R181). -/
def ruleBbPut (width : Nat) : Rule := fun s =>
  if 32 < width then .error .hwOperand
  else if bbOverflows s width then .error .hwBbFull
  else .ok (s.put s.arg0.toNat width)

/-- BB_EOM's rule (`43_bitbuffer.md` R183): the terminator, silently omitted where it would exceed `max`. -/
def ruleBbEom (max : Nat) : Rule := fun s =>
  if s.bitLen.toNat + 4 ≤ max then
    if bbOverflows s 4 then .error .hwBbFull else .ok (s.put 0 4)
  else .ok s

/-- BB_PAD's rule (`43_bitbuffer.md` R184): zero bits up to byte alignment, then pad codewords up to `target`; the
room for both is checked before any bit. -/
def ruleBbPad (target : Nat) : Rule := fun s =>
  let aligned := alignUp8 s.bitLen.toNat
  let pads := (target - aligned + 7) / 8
  if s.params.bbMaxBits < aligned + 8 * pads then .error .hwBbFull
  else .ok ((s.putBits (List.replicate (aligned - s.bitLen.toNat) false)).putBits (padBits pads))

/-- BB_CLEAR (`43_bitbuffer.md` R180). -/
def execBbClear (s : State) : Host.Outcome State Fault Refusal := complete s ruleBbClear

/-- BB_PUT (`43_bitbuffer.md` R181). -/
def execBbPut (width : Nat) (s : State) : Host.Outcome State Fault Refusal := complete s (ruleBbPut width)

/-- BB_EOM (`43_bitbuffer.md` R183). -/
def execBbEom (maxBits : Nat) (s : State) : Host.Outcome State Fault Refusal := complete s (ruleBbEom maxBits)

/-- BB_PAD (`43_bitbuffer.md` R184). -/
def execBbPad (target : Nat) (s : State) : Host.Outcome State Fault Refusal := complete s (ruleBbPad target)

end Sys2Proof.Machine
end

