-- ==== Sys2Proof/Machine/Segment.lean ====
section
/-! DEFINITION. The segment encoders (`42_segment.md`): alphabets, mode resolution, costs, and SEG_CLASSIFY,
SEG_COST, SEG_WRITE. -/

namespace Sys2Proof.Machine

/-- The Numeric alphabet: the bytes 0x30..0x39 (`42_segment.md` R162). -/
def isDigit (b : Byte) : Bool := 0x30 ≤ b.toNat && b.toNat ≤ 0x39

/-- The value of a digit. -/
def digitValue (b : Byte) : Nat := b.toNat - 0x30

/-- `aindex(b)`: the index in the 45-symbol alphanumeric alphabet, `none` outside it (`42_segment.md` R162). -/
def aindex? (b : Byte) : Option Nat :=
  let n := b.toNat
  if 0x30 ≤ n ∧ n ≤ 0x39 then some (n - 0x30)
  else if 0x41 ≤ n ∧ n ≤ 0x5A then some (n - 0x41 + 10)
  else
    match n with
    | 0x20 => some 36
    | 0x24 => some 37
    | 0x25 => some 38
    | 0x2A => some 39
    | 0x2B => some 40
    | 0x2D => some 41
    | 0x2E => some 42
    | 0x2F => some 43
    | 0x3A => some 44
    | _ => none

/-- The Alphanumeric alphabet. -/
def isAlphanumeric (b : Byte) : Bool := (aindex? b).isSome

/-- `aindex(b)` of a byte of the alphabet; the rules take it of no other byte. -/
def aindex (b : Byte) : Nat := (aindex? b).getD 0

/-- `classify(p)` (`42_segment.md` R164). -/
def classify (p : List Byte) : Mode :=
  if p.all isDigit then .numeric
  else if p.all isAlphanumeric then .alphanumeric
  else .byte

/-- `resolve(MODE, p)`; `none` is AUTO (`42_segment.md` R164). -/
def resolve (mode : Option Mode) (p : List Byte) : Except ErrCode Mode :=
  match mode with
  | none => .ok (classify p)
  | some .numeric => if p.all isDigit then .ok .numeric else .error .valAlphabet
  | some .alphanumeric => if p.all isAlphanumeric then .ok .alphanumeric else .error .valAlphabet
  | some .byte => .ok .byte

/-- `content_bits(mode, c)` (`42_segment.md` R167). -/
def contentBits (m : Mode) (c : Nat) : Nat :=
  match m with
  | .numeric => 10 * (c / 3) + (if c % 3 = 0 then 0 else if c % 3 = 1 then 4 else 7)
  | .alphanumeric => 11 * (c / 2) + 6 * (c % 2)
  | .byte => 8 * c

/-- `LEN_BITS(mode, v)`: a version outside 1..40 is a range error (`42_segment.md` R161). -/
def lenBits (p : Params) (m : Mode) (v : Nat) : Except ErrCode Nat :=
  match checkVersion v with
  | .error e => .error e
  | .ok () => .ok (p.lengthBits m v)

/-- `bit_cost(mode, c, v)` (`42_segment.md` R167). -/
def bitCost (p : Params) (m : Mode) (c v : Nat) : Except ErrCode Nat :=
  match lenBits p m v with
  | .error e => .error e
  | .ok w => .ok (4 + w + contentBits m c)

/-- Digits in groups of three, left to right: 10 bits a group, 7 for a last pair, 4 for a last digit
(`42_segment.md` R168). -/
def numericBits : List Byte → List Bool
  | x :: y :: z :: rest => bitsOf (100 * digitValue x + 10 * digitValue y + digitValue z) 10 ++ numericBits rest
  | [x, y] => bitsOf (10 * digitValue x + digitValue y) 7
  | [x] => bitsOf (digitValue x) 4
  | [] => []

/-- Alphanumeric pairs in 11 bits, a last single character in 6 (`42_segment.md` R168). -/
def alphanumericBits : List Byte → List Bool
  | x :: y :: rest => bitsOf (aindex x * 45 + aindex y) 11 ++ alphanumericBits rest
  | [x] => bitsOf (aindex x) 6
  | [] => []

/-- Each byte as it is, 8 bits (`42_segment.md` R168). -/
def byteBits (p : List Byte) : List Bool := p.flatMap fun b => bitsOf b.toNat 8

/-- The payload bits of a segment. -/
def payloadBits (m : Mode) (p : List Byte) : List Bool :=
  match m with
  | .numeric => numericBits p
  | .alphanumeric => alphanumericBits p
  | .byte => byteBits p

/-- A segment fetched and resolved (`42_segment.md` R163, R164). -/
structure Segment where
  mode : Mode
  payload : List Byte
  deriving DecidableEq, Repr

/-- `fetch(i)` then `resolve` (`42_segment.md` R163, R164). -/
def loadSegment (s : State) (i : Nat) : Except ErrCode Segment :=
  match fetchSegment s i with
  | .error e => .error e
  | .ok (mode, p) =>
    match resolve mode p with
    | .error e => .error e
    | .ok m => .ok { mode := m, payload := p }

/-- The bits SEG_WRITE appends: mode indicator, length field (the count modulo 2^w, `42_segment.md` R172), payload.
DESIGN CHOICE: the indicator is MODE_IND's, and MODE_IND changes nothing else; the mode codes stay 1, 2, 4 (log
entry 12). -/
def segmentBits (p : Params) (g : Segment) (w : Nat) : List Bool :=
  bitsOf (p.modeInd.get g.mode) 4 ++ bitsOf (g.payload.length % 2 ^ w) w ++ payloadBits g.mode g.payload

/-- SEG_CLASSIFY's rule (`42_segment.md` R165). -/
def ruleSegClassify (seg : Nat) : Rule := fun s =>
  match loadSegment s seg with
  | .error e => .error e
  | .ok g => .ok { s with result := BitVec.ofNat 32 g.mode.code }

/-- SEG_COST's rule (`42_segment.md` R166). -/
def ruleSegCost (seg : Nat) : Rule := fun s =>
  match loadSegment s seg with
  | .error e => .error e
  | .ok g =>
    match bitCost s.params g.mode g.payload.length s.arg0.toNat with
    | .error e => .error e
    | .ok cost => .ok { s with result := BitVec.ofNat 32 cost }

/-- SEG_WRITE's rule (`42_segment.md` R168). -/
def ruleSegWrite (seg : Nat) : Rule := fun s =>
  match loadSegment s seg with
  | .error e => .error e
  | .ok g =>
    match lenBits s.params g.mode s.resVersion.toNat with
    | .error e => .error e
    | .ok w =>
      if bbOverflows s (4 + w + contentBits g.mode g.payload.length) then .error .hwBbFull
      else .ok (s.putBits (segmentBits s.params g w))

/-- SEG_CLASSIFY (`42_segment.md` R165). -/
def execSegClassify (seg : Nat) (s : State) : Host.Outcome State Fault Refusal :=
  complete s (ruleSegClassify seg)

/-- SEG_COST (`42_segment.md` R166). -/
def execSegCost (seg : Nat) (s : State) : Host.Outcome State Fault Refusal := complete s (ruleSegCost seg)

/-- SEG_WRITE (`42_segment.md` R168). -/
def execSegWrite (seg : Nat) (s : State) : Host.Outcome State Fault Refusal := complete s (ruleSegWrite seg)

end Sys2Proof.Machine
end

