-- ==== Sys2Proof/Machine/Encoder.lean ====
section
/-! DEFINITION. The encoder (`46_encoder.md`): validation, version search, and NOP, VER_SELECT, ENCODE. -/

namespace Sys2Proof.Machine

/-- The segments of the descriptors in a list of indexes, fetched and resolved in order. -/
def loadSegments (s : State) : List Nat → Except ErrCode (List Segment)
  | [] => .ok []
  | i :: rest =>
    match loadSegment s i with
    | .error e => .error e
    | .ok g =>
      match loadSegments s rest with
      | .error e => .error e
      | .ok gs => .ok (g :: gs)

/-- `validate()` (`46_encoder.md` R281): shape, each segment in order, the explicit version. -/
def validate (s : State) : Except ErrCode (List Segment) :=
  if s.nseg = 0 ∨ s.params.segMax < s.nseg.toNat then .error .valShape
  else
    match loadSegments s (List.range s.nseg.toNat) with
    | .error e => .error e
    | .ok gs =>
      if s.cfgVersion ≠ 0 ∧ s.cfgMaxVer.toNat < s.cfgVersion.toNat then .error .valVersion
      else if s.cfgVersion ≠ 0 ∧ Config.maxVersion < s.cfgVersion.toNat then .error .rangeVersion
      else .ok gs

/-- `Σ bit_cost(m_i, len(p_i), v)` (`46_encoder.md` R282). -/
def requiredBits (p : Params) (gs : List Segment) (v : Nat) : Except ErrCode Nat :=
  match gs with
  | [] => .ok 0
  | g :: rest =>
    match bitCost p g.mode g.payload.length v, requiredBits p rest v with
    | .ok a, .ok b => .ok (a + b)
    | .error e, _ => .error e
    | _, .error e => .error e

/-- The search over a list of ascending versions: the first whose capacity strictly exceeds the required bits
(`46_encoder.md` R282). -/
def searchVersions (p : Params) (gs : List Segment) (lvl : BitVec 2) : List Nat → Except ErrCode Nat
  | [] => .error .capNoVersion
  | v :: rest =>
    if Config.maxVersion < v then .error .rangeVersion
    else
      match requiredBits p gs v with
      | .error e => .error e
      | .ok req => if req < maxBits p v lvl then .ok v else searchVersions p gs lvl rest

/-- `search()`: versions 1 .. MAXVER (`46_encoder.md` R282). -/
def search (s : State) (gs : List Segment) : Except ErrCode Nat :=
  searchVersions s.params gs s.cfgLevel (List.range' 1 s.cfgMaxVer.toNat)

/-- The resolved version: the explicit one, without a capacity check, or the search's (`46_encoder.md` R283). -/
def chooseVersion (s : State) (gs : List Segment) : Except ErrCode Nat :=
  if s.cfgVersion = 0 then search s gs else .ok s.cfgVersion.toNat

/-- The primary mode: the mode of segment 0 (`46_encoder.md` R283). -/
def primaryMode (gs : List Segment) : Nat :=
  match gs with
  | [] => 0
  | g :: _ => g.mode.code

/-- VER_SELECT's rule (`46_encoder.md` R283). -/
def ruleVerSelect : Rule := fun s =>
  match validate s with
  | .error e => .error e
  | .ok gs =>
    match chooseVersion s gs with
    | .error e => .error e
    | .ok v => .ok { s with resVersion := BitVec.ofNat 6 v, resMode := BitVec.ofNat 4 (primaryMode gs) }

/-- `M <- MAXBITS(RES.VERSION, CFG.LEVEL)` of ENCODE (`46_encoder.md` R284). -/
def encodeCapacity (s : State) : Nat := maxBits s.params s.resVersion.toNat s.cfgLevel

/-- ENCODE's steps for `nseg` segments, each the named command's rule (`46_encoder.md` R284). -/
def encodeSteps (nseg : Nat) : List Rule :=
  [ruleVerSelect, ruleBbClear] ++ (List.range nseg).map ruleSegWrite
    ++ [fun s => ruleBbEom (encodeCapacity s) s, fun s => ruleBbPad (encodeCapacity s) s,
        ruleRsAssemble, ruleMxTemplate, ruleMxEval, ruleMxCommit 0 true]

/-- NOP (`46_encoder.md` R280): nothing beyond the command protocol. -/
def execNop (s : State) : Host.Outcome State Fault Refusal := complete s fun t => .ok t

/-- VER_SELECT (`46_encoder.md` R283). -/
def execVerSelect (s : State) : Host.Outcome State Fault Refusal := complete s ruleVerSelect

/-- ENCODE (`46_encoder.md` R284): the first failing step ends it; completed steps keep their effects. -/
def execEncode (s : State) : Host.Outcome State Fault Refusal :=
  completeSteps s (encodeSteps s.nseg.toNat)

end Sys2Proof.Machine
end

