-- ==== Sys2Proof/Machine/Dispatch.lean ====
section
/-! DEFINITION. `exec`: one arm per command, each one direct call of that command's meaning. -/

namespace Sys2Proof.Machine

def exec (i : Instr) (s : State) : Host.Outcome State Fault Refusal :=
  match i with
  | .nop => Sys2Proof.Machine.execNop s
  | .gfLog => Sys2Proof.Machine.execGfLog s
  | .gfExp => Sys2Proof.Machine.execGfExp s
  | .polyNorm d shift => Sys2Proof.Machine.execPolyNorm d shift s
  | .polyMul d a b => Sys2Proof.Machine.execPolyMul d a b s
  | .polyMod d a b => Sys2Proof.Machine.execPolyMod d a b s
  | .polyGen d n => Sys2Proof.Machine.execPolyGen d n s
  | .segClassify seg => Sys2Proof.Machine.execSegClassify seg s
  | .segCost seg => Sys2Proof.Machine.execSegCost seg s
  | .segWrite seg => Sys2Proof.Machine.execSegWrite seg s
  | .bbClear => Sys2Proof.Machine.execBbClear s
  | .bbPut width => Sys2Proof.Machine.execBbPut width s
  | .bbEom maxBits => Sys2Proof.Machine.execBbEom maxBits s
  | .bbPad target => Sys2Proof.Machine.execBbPad target s
  | .ecInfo => Sys2Proof.Machine.execEcInfo s
  | .rsAssemble => Sys2Proof.Machine.execRsAssemble s
  | .mxTemplate => Sys2Proof.Machine.execMxTemplate s
  | .mxTrial mask test => Sys2Proof.Machine.execMxTrial mask test s
  | .mxScore mask => Sys2Proof.Machine.execMxScore mask s
  | .mxEval => Sys2Proof.Machine.execMxEval s
  | .mxCommit mask useBest => Sys2Proof.Machine.execMxCommit mask useBest s
  | .mxRead => Sys2Proof.Machine.execMxRead s
  | .verSelect => Sys2Proof.Machine.execVerSelect s
  | .encode => Sys2Proof.Machine.execEncode s

end Sys2Proof.Machine
end

