-- ==== Sys2Proof/Machine/Step.lean ====
section
/-! DEFINITION. One step of the system: the engine completes its command, or a cycle passes and the host's next
access takes effect (`70_reset_and_hazards.md` R350-R353). -/

namespace Sys2Proof.Machine

/-- `complete()` of the accepted word: decode, then the command's meaning; an illegal word is ERR_ILLEGAL
(`30_encoding.md` R105, `70_reset_and_hazards.md` R350). -/
def runWord (w : Word) (s : State) : Host.Outcome State Fault Refusal :=
  match decode w with
  | .ok i => exec i s
  | .error _ => .next (s.raise .illegal)

/-- A cycle of the in-flight command's latency passes. -/
def State.tick (s : State) (f : InFlight) : State := { s with inFlight := some { f with left := f.left - 1 } }

/-- One step. A command in flight with no cycles left completes. Otherwise the host's next access takes effect, and
a command in flight is one cycle nearer to completion. -/
def step (s : State) : Host.Outcome State Fault Refusal :=
  match s.inFlight with
  | none => .next s.hostStep
  | some f => if f.left = 0 then runWord f.word s else .next (s.tick f).hostStep

/-- `s` right after the host's write of the command word to CMD was accepted with no cycles of latency left
(`70_reset_and_hazards.md` R350): the very next step runs exactly that command (log entry 7). -/
def State.withFetchWord (s : State) (nbits w : Nat) : State := s.acceptWith (tableWord nbits w) 0

end Sys2Proof.Machine
end

