-- ==== Sys2Proof/Safety.lean ====
section
/-! DEFINITION. The terms the claims use: what the host can read back of a state, the outcomes of a command, the
invariants of the machine, and rules of the spec written a second time, by index, independently of the meanings. -/

namespace Sys2Proof.Machine

/-! ## Outcomes of a command -/

/-- A command completed without error (`70_reset_and_hazards.md` R350); ERR and ERRCODE stay as they are. -/
def State.completed (s : State) : State := { s with done := true, inFlight := none }

/-- A command ended with error `code`: only STATUS changed (`60_exceptions.md` R300, R305). -/
def State.failed (s : State) (code : Byte) : State :=
  { s with err := true, errCode := code, done := true, inFlight := none }

/-- Every byte outside `lo .. hi` reads the same. -/
def State.sameOutside (s t : State) (lo hi : Nat) : Prop := ∀ a, a < lo ∨ hi ≤ a → t.byteAt a = s.byteAt a

/-- Every word with these low bits `op` that has a bit of `mbz` set fails with ERR_ILLEGAL, changing only STATUS
(`30_encoding.md` R105, R106). -/
def IllegalWhere (op : Byte) (mbz : Word) : Prop :=
  ∀ (s : State) (w : Word), s.inFlight = some { word := w, left := 0 } → w.extractLsb' 0 8 = op → w &&& mbz ≠ 0 →
    step s = .next (s.failed 0x01)

/-- The rows of the opcode table as (match, mask) pairs, transcribed from `opcode_table.json`: a word is the row's
command where its masked bits equal `match` (`30_encoding.md` R103, R104). -/
def opcodeRows : List (Word × Word) :=
  [ (0x00000000, 0xFFFFFFFF), (0x00000001, 0xFFFFFFFF), (0x00000002, 0xFFFFFFFF)
  , (0x00000010, 0x0000FCFF), (0x00000011, 0xFFFFC0FF), (0x00000012, 0xFFFFC0FF), (0x00000013, 0x0000FCFF)
  , (0x00000020, 0xFFF0FFFF), (0x00000021, 0xFFF0FFFF), (0x00000022, 0xFFF0FFFF)
  , (0x00000028, 0xFFFFFFFF), (0x00000029, 0x0000FFFF), (0x0000002A, 0x0000FFFF), (0x0000002B, 0x0000FFFF)
  , (0x00000030, 0xFFFFFFFF), (0x00000031, 0xFFFFFFFF)
  , (0x00000040, 0xFFFFFFFF), (0x00000041, 0xFEF0FFFF), (0x00000042, 0xFFF0FFFF), (0x00000043, 0xFFFFFFFF)
  , (0x00000044, 0xFFE0FFFF), (0x00000045, 0xFFFFFFFF)
  , (0x00000050, 0xFFFFFFFF), (0x00000051, 0xFFFFFFFF) ]

/-! ## Reading a state back -/

/-- The number made of numbers below `n`. -/
def sumBelow (n : Nat) (f : Nat → Nat) : Nat := ((List.range n).map f).sum

/-- Bit `k` of the bit buffer (`10_state.md` R48). -/
def State.bbBit (s : State) (k : Nat) : Bool := (s.byteAt (0x005000 + k / 8)).getLsbD (7 - k % 8)

/-- The `width` bits of the bit buffer from `pos` on, read as a number, most significant bit first. -/
def State.bbNumber (s : State) (pos width : Nat) : Nat :=
  (List.range width).foldl (fun acc j => 2 * acc + (s.bbBit (pos + j)).toNat) 0

/-- The polynomial held in Pk: `PCOEF[k][0 .. PLEN[k])` (`10_state.md` R42, `20_memory.md` R76). -/
def State.poly (s : State) (k : PReg) : List Byte :=
  (List.range (s.plen.get k).toNat).map fun i => s.byteAt (0x003000 + 0x100 * k.val + i)

/-- Cell `(r, c)` of a matrix window (`20_memory.md` R77). -/
def State.cell (s : State) (w : Window) (r c : Nat) : Byte := s.byteAt (w.base + r * 177 + c)

/-- Codeword `i` (`20_memory.md` R71). -/
def State.codeword (s : State) (i : Nat) : Byte := s.byteAt (0x006000 + i)

/-- Descriptor fields and payload (`10_state.md` R46, R47; `20_memory.md` R75). -/
def State.segOffset (s : State) (i : Nat) : Nat :=
  (s.byteAt (0x002000 + 8 * i)).toNat + 256 * (s.byteAt (0x002000 + 8 * i + 1)).toNat
def State.segCount (s : State) (i : Nat) : Nat :=
  (s.byteAt (0x002000 + 8 * i + 2)).toNat + 256 * (s.byteAt (0x002000 + 8 * i + 3)).toNat
def State.segMode (s : State) (i : Nat) : Nat := (s.byteAt (0x002000 + 8 * i + 4)).toNat % 16
def State.segPayload (s : State) (i : Nat) : List Byte :=
  (List.range (s.segCount i)).map fun k => s.byteAt (0x004000 + s.segOffset i + k)

/-! ## Polynomials by their rules -/

/-- The product term `gexp(glog(a) + glog(b))` of two nonzero elements, from the ROMs (`40_gf.md` R134). -/
def gfTerm (a b : Byte) : Byte := expRom (((logRom a.toNat).toNat + (logRom b.toNat).toNat) % 255)

/-- The product of two field elements; 0 where one of them is 0. -/
def gfMul (a b : Byte) : Byte := if a = 0 ∨ b = 0 then 0 else gfTerm a b

/-- Coefficient `k` of a product: the XOR of the cross terms with i + j = k (`41_poly.md` R143). -/
def productCoeff (a b : List Byte) (k : Nat) : Byte :=
  (List.range a.length).foldl
    (fun acc i => if i ≤ k ∧ k - i < b.length then acc ^^^ gfTerm (a.getD i 0) (b.getD (k - i) 0) else acc) 0

/-- The value of a polynomial at a field element, leading coefficient first. -/
def polyEval (x : Byte) (p : List Byte) : Byte := p.foldl (fun acc c => gfMul acc x ^^^ c) 0

/-- The sequence `t` of one iteration of the modulo loop (`41_poly.md` R144). -/
def modIteration (s dv : List Byte) : List Byte :=
  let ratio : Int := (logRom (s.getD 0 0).toNat).toNat - ((logRom (dv.getD 0 0).toNat).toNat : Int)
  (List.range s.length).map fun k =>
    if k < dv.length then
      s.getD k 0 ^^^ expRom ((((logRom (dv.getD k 0).toNat).toNat : Int) + ratio) % 255).toNat
    else s.getD k 0

/-- `r` is the normal form `norm(t, 0)` of a nonempty sequence (`41_poly.md` R140). -/
def IsNorm (t r : List Byte) : Prop :=
  (∃ z, t = List.replicate z 0 ++ r ∧ ∃ c q, r = c :: q ∧ c ≠ 0) ∨ (∃ z, t = List.replicate (z + 1) 0 ∧ r = [0])

/-- The modulo loop as a relation: dividing `s` by `dv` ends with the remainder `r` (`41_poly.md` R144). -/
inductive ModRun (dv : List Byte) : List Byte → List Byte → Prop where
  | exit (s : List Byte) (h : s.length < dv.length ∨ s = [0]) : ModRun dv s s
  | iterate (s t r : List Byte) (h : ¬(s.length < dv.length ∨ s = [0])) (hn : IsNorm (modIteration s dv) t)
      (hr : ModRun dv t r) : ModRun dv s r

/-- `t` is `s` after a polynomial command completed with the result `r` for `P[d]` (`41_poly.md` R146). -/
def State.WrotePoly (s t : State) (d : PReg) (r : List Byte) : Prop :=
  t = { s.completed with mem := t.mem, plen := s.plen.set d.val (BitVec.ofNat 9 r.length) } ∧
    t.poly d = r ∧
    s.sameOutside t (0x003000 + 0x100 * d.val) (0x003000 + 0x100 * d.val + r.length)

/-! ## Segments by their rules -/

/-- The 45-symbol alphabet in its order, as byte values (`42_segment.md` R162). -/
def alphabet45 : List Nat :=
  [0x30, 0x31, 0x32, 0x33, 0x34, 0x35, 0x36, 0x37, 0x38, 0x39] ++
  [0x41, 0x42, 0x43, 0x44, 0x45, 0x46, 0x47, 0x48, 0x49, 0x4A, 0x4B, 0x4C, 0x4D] ++
  [0x4E, 0x4F, 0x50, 0x51, 0x52, 0x53, 0x54, 0x55, 0x56, 0x57, 0x58, 0x59, 0x5A] ++
  [0x20, 0x24, 0x25, 0x2A, 0x2B, 0x2D, 0x2E, 0x2F, 0x3A]

/-- Every byte is an ASCII digit. -/
abbrev AllDigits (p : List Byte) : Prop := ∀ b ∈ p, 0x30 ≤ b.toNat ∧ b.toNat ≤ 0x39

/-- Every byte is in the 45-symbol alphabet. -/
abbrev AllAlphanumeric (p : List Byte) : Prop := ∀ b ∈ p, b.toNat ∈ alphabet45

/-- Descriptor mode `mode` over payload `p` resolves to the mode code `m` (`42_segment.md` R164). -/
abbrev ResolvesTo (mode : Nat) (p : List Byte) (m : Nat) : Prop :=
  (mode = 0 ∧ AllDigits p ∧ m = 1) ∨
  (mode = 0 ∧ ¬AllDigits p ∧ AllAlphanumeric p ∧ m = 2) ∨
  (mode = 0 ∧ ¬AllDigits p ∧ ¬AllAlphanumeric p ∧ m = 4) ∨
  (mode = 1 ∧ AllDigits p ∧ m = 1) ∨
  (mode = 2 ∧ AllAlphanumeric p ∧ m = 2) ∨
  (mode = 4 ∧ m = 4)

/-- Descriptor `i` can be fetched and resolves to mode code `m` (`42_segment.md` R163, R164). -/
abbrev State.SegmentIs (s : State) (i m : Nat) : Prop :=
  s.segOffset i + s.segCount i ≤ s.params.dataMax ∧ ResolvesTo (s.segMode i) (s.segPayload i) m

/-- The number of a mode code. -/
def ByMode.at (b : ByMode) (m : Nat) : Nat := if m = 1 then b.numeric else if m = 2 then b.alphanumeric else b.byte

/-- The length-field width by mode code and version (`42_segment.md` R161). -/
def lengthWidth (p : Params) (m v : Nat) : Nat :=
  (p.lenBits.getD (if v ≤ 9 then 0 else if v ≤ 26 then 1 else 2) ⟨0, 0, 0⟩).at m

/-- `bit_cost(m, c, v)` by mode code (`42_segment.md` R167). -/
def segmentCost (p : Params) (m c v : Nat) : Nat :=
  4 + lengthWidth p m v +
    match m with
    | 1 => 10 * (c / 3) + [0, 4, 7].getD (c % 3) 0
    | 2 => 11 * (c / 2) + 6 * (c % 2)
    | _ => 8 * c

/-- The digit at index `k` of a payload, and the index in the alphabet. -/
def digitAt (p : List Byte) (k : Nat) : Nat := (p.getD k 0).toNat - 0x30
def indexAt (p : List Byte) (k : Nat) : Nat := alphabet45.idxOf (p.getD k 0).toNat

/-- The payload bits of mode `m` stand in the bit buffer from `pos` on, read group by group
(`42_segment.md` R168). -/
def State.PayloadAt (s : State) (m pos : Nat) (p : List Byte) : Prop :=
  (m = 1 →
    (∀ k, k < p.length / 3 →
      s.bbNumber (pos + 10 * k) 10 = 100 * digitAt p (3 * k) + 10 * digitAt p (3 * k + 1) + digitAt p (3 * k + 2)) ∧
    (p.length % 3 = 1 → s.bbNumber (pos + 10 * (p.length / 3)) 4 = digitAt p (p.length - 1)) ∧
    (p.length % 3 = 2 →
      s.bbNumber (pos + 10 * (p.length / 3)) 7 = 10 * digitAt p (p.length - 2) + digitAt p (p.length - 1))) ∧
  (m = 2 →
    (∀ k, k < p.length / 2 → s.bbNumber (pos + 11 * k) 11 = 45 * indexAt p (2 * k) + indexAt p (2 * k + 1)) ∧
    (p.length % 2 = 1 → s.bbNumber (pos + 11 * (p.length / 2)) 6 = indexAt p (p.length - 1))) ∧
  (m = 4 → ∀ k, k < p.length → s.bbNumber (pos + 8 * k) 8 = (p.getD k 0).toNat)

/-- `t` is `s` after a command completed that appended `count` bits to the bit buffer: BITLEN grew by `count`, every
other bit of the buffer stands, and only the bytes that hold the appended bits may differ (`43_bitbuffer.md` R182). -/
def State.AppendedBits (s t : State) (count : Nat) : Prop :=
  t = { s.completed with mem := t.mem, bitLen := BitVec.ofNat 16 (s.bitLen.toNat + count) } ∧
    (∀ k, k < s.bitLen.toNat ∨ s.bitLen.toNat + count ≤ k → t.bbBit k = s.bbBit k) ∧
    s.sameOutside t (0x005000 + s.bitLen.toNat / 8) (0x005000 + (s.bitLen.toNat + count + 7) / 8)

/-! ## Error correction by its rules -/

/-- Sums over the groups: blocks, total codewords, data codewords. -/
def blockCount (gs : List EcGroup) : Nat := (gs.map fun g => g.count).sum
def totalCount (gs : List EcGroup) : Nat := (gs.map fun g => g.count * g.total).sum
def dataCount (gs : List EcGroup) : Nat := (gs.map fun g => g.count * g.data).sum

/-- The error codewords of the first block. -/
def firstError (gs : List EcGroup) : Nat := ((gs.filter fun g => 0 < g.count).map fun g => g.total - g.data).headD 0

/-- The data bytes of block `j`: the blocks before it come first in the bit buffer (`44_codeword.md` R206). -/
def State.blockData (s : State) (blocks : List Block) (j : Nat) : List Byte :=
  (List.range (blocks.getD j ⟨0, 0⟩).data).map fun k =>
    s.byteAt (0x005000 + ((blocks.take j).map Block.data).sum + k)

/-- `c` are the error codewords of a data block: the remainder modulo the generator of degree `e`, right-aligned
(`44_codeword.md` R206). -/
def ErrorCodewordsOf (data : List Byte) (e : Nat) (c : List Byte) : Prop :=
  ∃ g dividend rem, generator e = .ok g ∧ ModRun g dividend rem ∧
    (∃ z, data = List.replicate z 0 ++ stripZeros data ∧ dividend = stripZeros data ++ List.replicate e 0) ∧
    rem.length ≤ e ∧ c = List.replicate (e - rem.length) 0 ++ rem

/-! ## Matrices by their rules -/

/-- Whether `(r, c)` lies in a `size` × `size` corner square of an n × n symbol: top left, bottom left, top right. -/
def inCorner (n size r c : Nat) : Bool :=
  (decide (r < size) && decide (c < size)) || (decide (n - size ≤ r) && decide (c < size)) ||
    (decide (r < size) && decide (n - size ≤ c))

/-- The finder pattern at offset `(i, j)`: ring and core are DARK (`45_matrix.md` R231). -/
def finderDark (i j : Nat) : Bool :=
  decide (i = 0) || decide (i = 6) || decide (j = 0) || decide (j = 6) ||
    (decide (2 ≤ i) && decide (i ≤ 4) && decide (2 ≤ j) && decide (j ≤ 4))

/-- The alignment centre within two cells of `(r, c)`, where one is: the pairs of ALIGN_POS but those in the finder
corners (`45_matrix.md` R233). -/
def alignmentCentre (p : Params) (v r c : Nat) : Option (Nat × Nat) :=
  ((p.alignments v).flatMap fun a => (p.alignments v).map fun b => (a, b)).find? fun x =>
    !inCorner (moduleCount v) 8 x.1 x.2 && decide (x.1 ≤ r + 2) && decide (r ≤ x.1 + 2) && decide (x.2 ≤ c + 2) &&
      decide (c ≤ x.2 + 2)

/-- Cell `(r, c)` of the template for version `v`, by position (`45_matrix.md` R231, R233, R236, R237). -/
def templateCell (p : Params) (v r c : Nat) : Byte :=
  let n := moduleCount v
  if inCorner n 7 r c then
    if finderDark (if r < 7 then r else r - (n - 7)) (if c < 7 then c else c - (n - 7)) then 0x02 else 0x01
  else if inCorner n 8 r c then 0x01
  else
    match alignmentCentre p v r c with
    | some (a, b) =>
      if r = a + 2 ∨ a = r + 2 ∨ c = b + 2 ∨ b = c + 2 ∨ (r = a ∧ c = b) then 0x02 else 0x01
    | none =>
      if c = 6 then (if r % 2 = 0 then 0x02 else 0x01)
      else if r = 6 then (if c % 2 = 0 then 0x02 else 0x01)
      else 0x00

/-- Cell `(r, c)` of a trial where it holds format information, the fixed module or version information, by position;
`none` elsewhere (`45_matrix.md` R239-R241). A test trial leaves them LIGHT but for the fixed module, which takes
TRIAL_DARK_MODULE. -/
def infoCell (p : Params) (lvl : BitVec 2) (v m : Nat) (test : Bool) (r c : Nat) : Option Byte :=
  let n := 4 * v + 17
  let format := fun i => some (if !test && (formatInfo p lvl m).testBit i then 0x02 else 0x01)
  let version := fun i => some (if !test && (versionInfo p v).testBit i then 0x02 else 0x01)
  if c = 8 ∧ r = n - 8 then some (if !test || p.trialDarkModule then 0x02 else 0x01)
  else if c = 8 ∧ n - 7 ≤ r then format (r + 15 - n)
  else if c = 8 ∧ r ≤ 5 then format r
  else if c = 8 ∧ (r = 7 ∨ r = 8) then format (r - 1)
  else if r = 8 ∧ n - 8 ≤ c then format (n - 1 - c)
  else if r = 8 ∧ c = 7 then format 8
  else if r = 8 ∧ c ≤ 5 then format (14 - c)
  else if 7 ≤ v ∧ r ≤ 5 ∧ n - 11 ≤ c ∧ c ≤ n - 9 then version (3 * r + (c + 11 - n))
  else if 7 ≤ v ∧ c ≤ 5 ∧ n - 11 ≤ r ∧ r ≤ n - 9 then version (3 * c + (r + 11 - n))
  else none

/-- Bit `k` of the codeword sequence, most significant bit of each codeword first; 0 past it (`45_matrix.md` R242). -/
def State.codewordBit (s : State) (k : Nat) : Bool :=
  decide (k / 8 < s.cwLen.toNat) && (s.codeword (k / 8)).getLsbD (7 - k % 8)

/-- The cells that take data, in the order of the sweep: those UNSET in TPL that hold no format information, fixed
module or version information (`45_matrix.md` R242, R244). -/
def State.dataCells (s : State) : List (Nat × Nat) :=
  (sweep (moduleCount s.tplVer.toNat)).filter fun x =>
    (infoCell s.params s.cfgLevel s.tplVer.toNat 0 true x.1 x.2).isNone && decide (s.cell .tpl x.1 x.2 = 0x00)

/-- Window `w` of `t` holds `trial(m, test)` of `s`, cell by cell: the information cells, the template's cells, and on
the data cells the codeword bits in order, inverted where the mask says (`45_matrix.md` R239-R244). -/
def State.TrialIn (s t : State) (w : Window) (m : Nat) (test : Bool) : Prop :=
  let v := s.tplVer.toNat
  (∀ r c, r < moduleCount v → c < moduleCount v →
    (∀ b, infoCell s.params s.cfgLevel v m test r c = some b → t.cell w r c = b) ∧
    (infoCell s.params s.cfgLevel v m test r c = none → s.cell .tpl r c ≠ 0x00 → t.cell w r c = s.cell .tpl r c)) ∧
  (∀ k r c, s.dataCells[k]? = some (r, c) →
    t.cell w r c = if (s.codewordBit k ^^ maskBit m r c) then 0x02 else 0x01)

/-- An n × n table of cells. -/
abbrev Grid.isSquare (n : Nat) (g : Grid) : Prop := g.length = n ∧ ∀ row ∈ g, row.length = n

/-- Five cells of one colour from `i` on, in a line of `n` cells. -/
def fiveFrom (n : Nat) (x : Nat → Bool) (i : Nat) : Bool :=
  decide (i + 5 ≤ n) && (List.range 5).all fun j => x (i + j) == x i

/-- Rule (a) on one line, by start index: five equal cells score 1, and 3 where the run starts
(`45_matrix.md` R250). -/
def linePenaltyA (n : Nat) (x : Nat → Bool) : Nat :=
  sumBelow n fun i => if fiveFrom n x i then (if i = 0 ∨ x (i - 1) ≠ x i then 3 else 1) else 0

/-- Rule (c) on one line, by start index (`45_matrix.md` R250). -/
def linePenaltyC (n : Nat) (x : Nat → Bool) : Nat :=
  sumBelow n fun i =>
    if i + 11 ≤ n then
      let window := (List.range 11).map fun j => x (i + j)
      if window = [true, false, true, true, true, false, true, false, false, false, false] ∨
          window = [false, false, false, false, true, false, true, true, true, false, true] then 40 else 0
    else 0

/-- `score(T)` of an n × n matrix by its cells' colours (`45_matrix.md` R250). -/
def scoreOf (n : Nat) (dark : Nat → Nat → Bool) : Nat :=
  let d := sumBelow n fun r => sumBelow n fun c => (dark r c).toNat
  (sumBelow n fun r => linePenaltyA n (dark r)) + (sumBelow n fun c => linePenaltyA n fun r => dark r c) +
    (sumBelow (n - 1) fun r => sumBelow (n - 1) fun c =>
      if dark r (c + 1) = dark r c ∧ dark (r + 1) c = dark r c ∧ dark (r + 1) (c + 1) = dark r c then 3 else 0) +
    (sumBelow n fun r => linePenaltyC n (dark r)) + (sumBelow n fun c => linePenaltyC n fun r => dark r c) +
    (if 50 * (n * n) ≤ 100 * d then 100 * d - 50 * (n * n) else 50 * (n * n) - 100 * d) / (5 * (n * n)) * 10

/-! ## Runs of commands -/

/-- The commands run one after another from `s`, and leave `t`. -/
def State.Runs (s : State) : List Instr → State → Prop
  | [], t => t = s
  | i :: rest, t => ∃ u, exec i s = .next u ∧ u.Runs rest t

/-- The commands of ENCODE up to the padded bit buffer, for `nseg` segments and the capacity `m` (`46_encoder.md`
R284). -/
def bufferCommands (nseg m : Nat) : List Instr :=
  [.verSelect, .bbClear] ++ (List.range nseg).map .segWrite ++ [.bbEom m, .bbPad m]

/-! ## Invariants -/

/-- The parameters fit the address map: no store is larger than its window (`20_memory.md` R71), and every row of
EC_TABLE fits CW (`00_scope.md` R5). -/
abbrev Params.Fits (p : Params) : Prop :=
  p.polyMax ≤ 256 ∧ p.bbMaxBits ≤ 32768 ∧ p.dataMax ≤ 4096 ∧ p.segMax ≤ 16 ∧
    ∀ row ∈ p.ecTable, totalCount row.l ≤ 4096 ∧ totalCount row.m ≤ 4096 ∧ totalCount row.q ≤ 4096 ∧
      totalCount row.h ≤ 4096

/-- Memory is in its canonical form. -/
def State.MemoryCanonical (s : State) : Prop := Memory.wf s.mem

/-- STATUS is consistent: ERRCODE is 0 without an error and a code of `60_exceptions.md` R301 with one; a running
command has neither completed nor failed (`10_state.md` R23-R25). -/
def State.StatusConsistent (s : State) : Prop :=
  (s.err = false → s.errCode = 0) ∧ (s.err = true → ∃ e : ErrCode, s.errCode = e.code) ∧
    (s.busy = true → s.done = false ∧ s.err = false)

/-- The parameters fit the map, and the registers that only commands write stay in their ranges (`10_state.md` R34,
R35, R37, R38). -/
abbrev State.RegistersBounded (s : State) : Prop :=
  s.params.Fits ∧ s.bitLen.toNat ≤ s.params.bbMaxBits ∧ s.cwLen.toNat ≤ 4096 ∧ s.resVersion.toNat ≤ 40 ∧
    (s.resMode = 0 ∨ s.resMode = 1 ∨ s.resMode = 2 ∨ s.resMode = 4) ∧ s.tplVer.toNat ≤ 40 ∧ s.finalVer.toNat ≤ 40

/-- Every bit of BB at a position from BITLEN on is 0 (`43_bitbuffer.md` R185). -/
def State.BufferTailZero (s : State) : Prop := ∀ k, s.bitLen.toNat ≤ k → k < 32768 → s.bbBit k = false

/-- TPL holds the template for TPLVER (`10_state.md` R50). -/
def State.TemplateHeld (s : State) : Prop :=
  s.tplVer ≠ 0 → s.tplVer.toNat ≤ 40 ∧
    ∀ r c, r < moduleCount s.tplVer.toNat → c < moduleCount s.tplVer.toNat →
      s.cell .tpl r c = (template s.params s.tplVer.toNat).get r c

/-- Every cell of FINAL's symbol is LIGHT or DARK (`10_state.md` R52, `45_matrix.md` R267). -/
def State.FinalComplete (s : State) : Prop :=
  s.finalVer ≠ 0 → s.finalVer.toNat ≤ 40 ∧
    ∀ r c, r < moduleCount s.finalVer.toNat → c < moduleCount s.finalVer.toNat →
      s.cell .final r c = 0x01 ∨ s.cell .final r c = 0x02

/-! ## The host's side -/

/-- What no command reads and no command writes: the enables and COLL, which the host may change while a command runs
(`70_reset_and_hazards.md` R351), LASTOP, which acceptance alone writes (`10_state.md` R27), and the model's own queue,
last response and indexes of the draws the bus takes (log entries 1, 2, 4). -/
structure HostSide where
  ieDone : Bool
  ieErr : Bool
  coll : Bool
  lastOp : Byte
  queue : List HostAction
  response : Option BusResponse
  accepted : Nat
  reads : Nat
  deriving DecidableEq, Repr

/-- `s` with another host's side. -/
def State.withHostSide (s : State) (h : HostSide) : State :=
  { s with
    ieDone := h.ieDone
    ieErr := h.ieErr
    coll := h.coll
    lastOp := h.lastOp
    hostQueue := h.queue
    response := h.response
    draws := { s.draws with accepted := h.accepted, reads := h.reads } }

/-- The action is a write of SOFT_RESET of the core at `base` (`70_reset_and_hazards.md` R341). -/
def HostAction.softResets (base : BitVec 24) : HostAction → Bool
  | .write .word addr value => decide (addr = base + 0x004) && value.getLsbD 31
  | .write .half _ _ | .write .byte _ _ | .read _ _ | .wait => false

/-- Two states hold the same encoder inputs: NSEG, CFG, SEGDESC and DATA (`46_encoder.md` R284), and the core has the
same parameters. -/
def State.sameEncoderInputs (s t : State) : Prop :=
  t.params = s.params ∧
  t.nseg = s.nseg ∧ t.cfgVersion = s.cfgVersion ∧ t.cfgLevel = s.cfgLevel ∧ t.cfgMaxVer = s.cfgMaxVer ∧
    (∀ i, i < 128 → t.byteAt (0x002000 + i) = s.byteAt (0x002000 + i)) ∧
    (∀ i, i < 4096 → t.byteAt (0x004000 + i) = s.byteAt (0x004000 + i))

end Sys2Proof.Machine
end

