-- ==== Sys2Proof/Certificates/Slice0/Obligations.lean ====
section
/-! DEFINITION. The statements about the machine, from the numbered rules of the spec. -/

open Sys2Proof Sys2Proof.Machine

/-! ## Decoding and the step -/

/-- A command in flight with no cycles left: the step is its word's command, and nothing is added around it. A word
placed by `withFetchWord` is the first instruction of the next step. Otherwise the step is one access of the host, in
the order of its queue, and a command in flight is one cycle nearer to completion. WAIT reads STATUS, and leaves the
queue only where BUSY is 0 (`20_memory.md` R85, `30_encoding.md` R105, R107, `70_reset_and_hazards.md` R350, R352; log
entries 1, 2, 7, and 11 for STATUS's address). -/
def Obligations.StepRunsDecodedCommand : Prop :=
  (∀ (s : State) (w : Word) (i : Instr), s.inFlight = some { word := w, left := 0 } → decode w = .ok i →
    step s = exec i s) ∧
  (∀ (s : State) (nbits w : Nat) (i : Instr), decodeTableWord nbits w = some i →
    step (s.withFetchWord nbits w) = exec i (s.withFetchWord nbits w)) ∧
  (∀ s : State, s.inFlight = none → s.hostQueue = [] → step s = .next s) ∧
  (∀ (s : State) (width : Width) (addr : BitVec 24) (rest : List HostAction), s.inFlight = none →
    s.hostQueue = .read width addr :: rest →
    step s = .next ({ s with hostQueue := rest }.hostRead width addr)) ∧
  (∀ (s : State) (width : Width) (addr : BitVec 24) (value : Word) (rest : List HostAction), s.inFlight = none →
    s.hostQueue = .write width addr value :: rest →
    step s = .next ({ s with hostQueue := rest }.hostWrite width addr value)) ∧
  (∀ (s : State) (rest : List HostAction), s.inFlight = none → s.hostQueue = .wait :: rest →
    step s = .next ({ s with hostQueue := rest }.hostRead .word (s.params.qrcBase + 0x008))) ∧
  (∀ (s : State) (w : Word) (k : Nat), s.inFlight = some { word := w, left := k + 1 } →
    step s = .next ({ s with inFlight := some { word := w, left := k } }.hostStep)) ∧
  (∀ (s : State) (w : Word) (k : Nat) (rest : List HostAction), s.inFlight = some { word := w, left := k + 1 } →
    s.hostQueue = .wait :: rest →
    step s = .next
      ({ s with inFlight := some { word := w, left := k } }.hostRead .word (s.params.qrcBase + 0x008)))

/-- Exactly the words of the opcode table are commands; every other word fails with ERR_ILLEGAL and changes only
STATUS (`30_encoding.md` R105, R106). -/
def Obligations.OnlyTableWordsDecode : Prop :=
  (∀ w : Word, (∃ i, decode w = .ok i) ↔ ∃ row ∈ opcodeRows, w &&& row.2 = row.1) ∧
  (∀ (s : State) (w : Word), s.inFlight = some { word := w, left := 0 } →
    (∀ row ∈ opcodeRows, w &&& row.2 ≠ row.1) → step s = .next (s.failed 0x01))

/-- Decoding an encoded well-formed command gives it back: no operand bit is dropped (`30_encoding.md` R109). -/
def Obligations.DecodeOfEncode : Prop := ∀ i : Instr, i.wf = true → decode (encode i) = .ok i

/-- Every word has one meaning: a word that decodes is the encoding of what it decodes to, and every operand read fits
its field (`30_encoding.md` R101, R102, R104, R105). -/
def Obligations.EncodeOfDecode : Prop :=
  ∀ (w : Word) (i : Instr), decode w = .ok i → encode i = w ∧ i.wf = true

/-- Words written out by hand from the encodings decode to their commands (`30_encoding.md` R109). -/
def Obligations.SampleWordsDecode : Prop :=
  decode 0x00001211#32 = .ok (.polyMul 2 0 1) ∧ decode 0x000A0113#32 = .ok (.polyGen 1 10) ∧
    decode 0x00040029#32 = .ok (.bbPut 4) ∧ decode 0x01030041#32 = .ok (.mxTrial 3 true) ∧
    decode 0x00000051#32 = .ok .encode ∧ decode 0x00100044#32 = .ok (.mxCommit 0 true) ∧
    decode 0x00020310#32 = .ok (.polyNorm 3 2) ∧ decode 0x00002C12#32 = .ok (.polyMod 0 3 2) ∧
    decode 0x000F0022#32 = .ok (.segWrite 15) ∧ decode 0x00000100#32 = .error (.mbzNotZero 0x00)

/-! ## GF(256) -/

/-- The constant tables have the values and properties the spec states: the ROMs (`40_gf.md` R130, R131), and of the
parameters' defaults EC_TABLE (`44_codeword.md` R201, R204), MODE_IND and LEN_BITS (`42_segment.md` R160, R161), the
format and version information (`45_matrix.md` R238, R241). The defaults are the model's configuration at reset (log
entry 5). -/
def Obligations.ConstantTables : Prop :=
  (∀ s : State, ∀ i, i < 256 → s.byteAt (0x001000 + i) = expRom i ∧ s.byteAt (0x001100 + i) = logRom i) ∧
  (∀ i, i < 8 → (expRom i).toNat = 2 ^ i) ∧
  (∀ i, 8 ≤ i → i < 256 →
    expRom i = expRom (i - 4) ^^^ expRom (i - 5) ^^^ expRom (i - 6) ^^^ expRom (i - 8)) ∧
  expRom 255 = 1 ∧
  (∀ i, i < 255 → (logRom (expRom i).toNat).toNat = i) ∧
  State.reset.params = Params.default ∧ Params.default.Fits ∧
  (∀ v, v ∈ List.range' 1 40 → ∀ lvl : BitVec 2,
    let gs := Params.default.ecGroups v lvl
    (gs.length = 1 ∨ gs.length = 2) ∧
    (∀ g ∈ gs, g.data < g.total ∧ 1 ≤ g.data ∧ 1 ≤ g.count ∧
      some (g.total - g.data) = (gs.map fun h => h.total - h.data).head?) ∧
    (∀ a ∈ gs.head?, ∀ b ∈ gs.tail, b.total = a.total + 1 ∧ b.data = a.data + 1) ∧
    blockCount gs ≤ 81 ∧ totalCount gs ≤ 3706 ∧ 8 * dataCount gs ≤ 23648) ∧
  (∀ m ∈ [1, 2, 4], Params.default.modeInd.at m = m) ∧
  (∀ v, 1 ≤ v → v ≤ 9 → [1, 2, 4].map (fun m => lengthWidth Params.default m v) = [10, 9, 8]) ∧
  (∀ v, 10 ≤ v → v ≤ 26 → [1, 2, 4].map (fun m => lengthWidth Params.default m v) = [12, 11, 16]) ∧
  (∀ v, 27 ≤ v → v ≤ 40 → [1, 2, 4].map (fun m => lengthWidth Params.default m v) = [14, 13, 16]) ∧
  (List.range 8).map (formatInfo Params.default 1) =
    [0x77C4, 0x72F3, 0x7DAA, 0x789D, 0x662F, 0x6318, 0x6C41, 0x6976] ∧
  (List.range 8).map (formatInfo Params.default 0) =
    [0x5412, 0x5125, 0x5E7C, 0x5B4B, 0x45F9, 0x40CE, 0x4F97, 0x4AA0] ∧
  (List.range 8).map (formatInfo Params.default 3) =
    [0x355F, 0x3068, 0x3F31, 0x3A06, 0x24B4, 0x2183, 0x2EDA, 0x2BED] ∧
  (List.range 8).map (formatInfo Params.default 2) =
    [0x1689, 0x13BE, 0x1CE7, 0x19D0, 0x0762, 0x0255, 0x0D0C, 0x083B] ∧
  (List.range' 7 34).map (versionInfo Params.default) =
    [0x07C94, 0x085BC, 0x09A99, 0x0A4D3, 0x0BBF6, 0x0C762, 0x0D847, 0x0E60D, 0x0F928, 0x10B78, 0x1145D, 0x12A17] ++
    [0x13532, 0x149A6, 0x15683, 0x168C9, 0x177EC, 0x18EC4, 0x191E1, 0x1AFAB, 0x1B08E, 0x1CC1A, 0x1D33F, 0x1ED75] ++
    [0x1F250, 0x209D5, 0x216F0, 0x228BA, 0x2379F, 0x24B0B, 0x2542E, 0x26A64, 0x27541, 0x28C69]

/-- GF_LOG of the 255 nonzero elements is the exponent the EXP table gives, and a domain error elsewhere
(`40_gf.md` R131, R132). -/
def Obligations.GfLogResult : Prop :=
  (∀ (s : State) (n : Nat), 1 ≤ n → n ≤ 255 → s.arg0.toNat = n →
    ∃ k, k < 255 ∧ (expRom k).toNat = n ∧
      exec .gfLog s = .next { s.completed with result := BitVec.ofNat 32 k }) ∧
  (∀ s : State, s.arg0.toNat = 0 ∨ 255 < s.arg0.toNat → exec .gfLog s = .next (s.failed 0x34)) ∧
  IllegalWhere 0x01 0xFFFFFF00

/-- GF_EXP reads its exponent signed, modulo 255 (`40_gf.md` R133). -/
def Obligations.GfExpResult : Prop :=
  (∀ (s : State) (k : Nat) (q : Int), k < 255 → s.arg0.toInt = 255 * q + k →
    exec .gfExp s = .next { s.completed with result := (expRom k).setWidth 32 }) ∧
  (∀ s : State, ∃ k q, k < 255 ∧ s.arg0.toInt = 255 * q + (k : Nat)) ∧
  IllegalWhere 0x02 0xFFFFFF00

/-! ## Polynomials -/

/-- POLY_NORM strips every leading zero and appends the shift; what would be empty is `[0]`
(`41_poly.md` R140, R142, R146). -/
def Obligations.PolyNormResult : Prop :=
  (∀ (s : State) (d : PReg) (shift z : Nat) (c : Byte) (q : List Byte), s.params.Fits →
    s.poly d = List.replicate z 0 ++ c :: q → c ≠ 0 → (s.plen.get d).toNat ≤ s.params.polyMax →
    q.length + 1 + shift ≤ s.params.polyMax →
    ∃ t, exec (.polyNorm d shift) s = .next t ∧ s.WrotePoly t d (c :: q ++ List.replicate shift 0)) ∧
  (∀ (s : State) (d : PReg) (shift z : Nat), s.params.Fits → s.poly d = List.replicate (z + 1) 0 →
    (s.plen.get d).toNat ≤ s.params.polyMax → shift ≤ s.params.polyMax →
    ∃ t, exec (.polyNorm d shift) s = .next t ∧
      s.WrotePoly t d (if shift = 0 then [0] else List.replicate shift 0))

/-- POLY_MUL of polynomials without zero coefficients: every coefficient is the XOR of its cross terms
(`41_poly.md` R143, R146). -/
def Obligations.PolyMulResult : Prop :=
  ∀ (s : State) (d a b : PReg), s.params.Fits → 1 ≤ (s.plen.get a).toNat → 1 ≤ (s.plen.get b).toNat →
    (s.plen.get a).toNat + (s.plen.get b).toNat ≤ s.params.polyMax + 1 →
    (∀ c ∈ s.poly a, c ≠ 0) → (∀ c ∈ s.poly b, c ≠ 0) →
    ∃ t, exec (.polyMul d a b) s = .next t ∧
      s.WrotePoly t d
        ((List.range ((s.plen.get a).toNat + (s.plen.get b).toNat - 1)).map (productCoeff (s.poly a) (s.poly b)))

/-- POLY_MOD runs the loop of its rule to the end: the remainder is shorter than the divisor, or `[0]`
(`41_poly.md` R144, R146). -/
def Obligations.PolyModResult : Prop :=
  ∀ (s : State) (d a b : PReg), s.params.Fits →
    1 ≤ (s.plen.get a).toNat → (s.plen.get a).toNat ≤ s.params.polyMax →
    1 ≤ (s.plen.get b).toNat → (s.plen.get b).toNat ≤ s.params.polyMax →
    ((s.plen.get a).toNat < (s.plen.get b).toNat ∨ s.poly a = [0] ∨
      ((s.poly a).headD 0 ≠ 0 ∧ ∀ c ∈ s.poly b, c ≠ 0)) →
    ∃ t r, exec (.polyMod d a b) s = .next t ∧ s.WrotePoly t d r ∧ ModRun (s.poly b) (s.poly a) r ∧
      (r.length < (s.poly b).length ∨ r = [0])

/-- POLY_GEN builds the product of `[1, gexp(i)]`, i below N, factor by factor; no factor meets a zero coefficient on
the way to N = 255, so it completes for every N with N + 1 coefficients up to POLY_MAX (`41_poly.md` R145, R146). -/
def Obligations.PolyGenResult : Prop :=
  ∃ g : Nat → List Byte, g 0 = [1] ∧
    (∀ n, n < 255 → (∀ c ∈ g n, c ≠ 0) ∧
      g (n + 1) = (List.range (n + 2)).map (productCoeff (g n) [1, expRom n])) ∧
    (∀ (s : State) (d : PReg) (n : Nat), s.params.Fits → n + 1 ≤ s.params.polyMax →
      ∃ t, exec (.polyGen d n) s = .next t ∧ s.WrotePoly t d (g n)) ∧
    (∀ (s : State) (d : PReg) (n : Nat), s.params.polyMax < n + 1 →
      exec (.polyGen d n) s = .next (s.failed 0x40))

/-- The errors of the polynomial commands, each where it is the first that applies; an error writes nothing to the
register file (`41_poly.md` R140-R144). -/
def Obligations.PolyErrors : Prop :=
  (∀ (s : State) (d : PReg) (shift : Nat),
    ((s.plen.get d).toNat = 0 → exec (.polyNorm d shift) s = .next (s.failed 0x35)) ∧
    ((s.plen.get d).toNat ≠ 0 → s.params.polyMax < (s.plen.get d).toNat →
      exec (.polyNorm d shift) s = .next (s.failed 0x40)) ∧
    (∀ z c q, s.poly d = List.replicate z 0 ++ c :: q → c ≠ 0 → (s.plen.get d).toNat ≤ s.params.polyMax →
      s.params.polyMax < q.length + 1 + shift → exec (.polyNorm d shift) s = .next (s.failed 0x40)) ∧
    (∀ z, s.poly d = List.replicate (z + 1) 0 → (s.plen.get d).toNat ≤ s.params.polyMax →
      s.params.polyMax < shift → exec (.polyNorm d shift) s = .next (s.failed 0x40))) ∧
  (∀ (s : State) (i : Instr) (d a b : PReg), i = .polyMul d a b ∨ i = .polyMod d a b →
    ((s.plen.get a).toNat = 0 → exec i s = .next (s.failed 0x35)) ∧
    ((s.plen.get a).toNat ≠ 0 → s.params.polyMax < (s.plen.get a).toNat → exec i s = .next (s.failed 0x40)) ∧
    (1 ≤ (s.plen.get a).toNat → (s.plen.get a).toNat ≤ s.params.polyMax →
      ((s.plen.get b).toNat = 0 → exec i s = .next (s.failed 0x35)) ∧
      ((s.plen.get b).toNat ≠ 0 → s.params.polyMax < (s.plen.get b).toNat → exec i s = .next (s.failed 0x40)))) ∧
  (∀ (s : State) (d a b : PReg), 1 ≤ (s.plen.get a).toNat → (s.plen.get a).toNat ≤ s.params.polyMax →
    1 ≤ (s.plen.get b).toNat → (s.plen.get b).toNat ≤ s.params.polyMax →
    (s.params.polyMax + 1 < (s.plen.get a).toNat + (s.plen.get b).toNat →
      exec (.polyMul d a b) s = .next (s.failed 0x40)) ∧
    ((s.plen.get a).toNat + (s.plen.get b).toNat ≤ s.params.polyMax + 1 → (0 ∈ s.poly a ∨ 0 ∈ s.poly b) →
      exec (.polyMul d a b) s = .next (s.failed 0x34)) ∧
    ((s.plen.get b).toNat ≤ (s.plen.get a).toNat → s.poly a ≠ [0] →
      ((s.poly a).headD 0 = 0 ∨ 0 ∈ s.poly b) → exec (.polyMod d a b) s = .next (s.failed 0x34)))

/-! ## Segments -/

/-- SEG_CLASSIFY answers the mode code the descriptor's payload resolves to, and SEG_COST 4 bits, the length field and
the content bits at the version in ARG0 (`42_segment.md` R160-R167).
That the mode codes do not follow MODE_IND is the model's choice (log entry 12). -/
def Obligations.SegClassifyAndCost : Prop :=
  (∀ (s : State) (i m : Nat), i < 16 → s.SegmentIs i m →
    exec (.segClassify i) s = .next { s.completed with result := BitVec.ofNat 32 m }) ∧
  (∀ (s : State) (i m : Nat), i < 16 → s.SegmentIs i m → 1 ≤ s.arg0.toNat → s.arg0.toNat ≤ 40 →
    exec (.segCost i) s =
      .next { s.completed with result := BitVec.ofNat 32 (segmentCost s.params m (s.segCount i) s.arg0.toNat) })

/-- SEG_WRITE appends the mode indicator, the length field and the payload groups, and nothing else changes
(`42_segment.md` R161, R168, R172).
That the mode codes do not follow MODE_IND is the model's choice (log entry 12). -/
def Obligations.SegWriteResult : Prop :=
  ∀ (s : State) (i m : Nat), i < 16 → s.SegmentIs i m → 1 ≤ s.resVersion.toNat → s.resVersion.toNat ≤ 40 →
    s.params.Fits → s.bitLen.toNat + segmentCost s.params m (s.segCount i) s.resVersion.toNat ≤ s.params.bbMaxBits →
    ∃ t, exec (.segWrite i) s = .next t ∧
      s.AppendedBits t (segmentCost s.params m (s.segCount i) s.resVersion.toNat) ∧
      t.bbNumber s.bitLen.toNat 4 = s.params.modeInd.at m % 16 ∧
      t.bbNumber (s.bitLen.toNat + 4) (lengthWidth s.params m s.resVersion.toNat) =
        s.segCount i % 2 ^ lengthWidth s.params m s.resVersion.toNat ∧
      t.PayloadAt m (s.bitLen.toNat + 4 + lengthWidth s.params m s.resVersion.toNat) (s.segPayload i)

/-- The bits SEG_WRITE appends number exactly the RESULT of SEG_COST at the same version (`42_segment.md` R173). -/
def Obligations.CostAndWriteAgree : Prop :=
  ∀ (s : State) (i v : Nat) (cost written : State), s.params.Fits → s.resVersion.toNat = v →
    exec (.segCost i) { s with arg0 := BitVec.ofNat 32 v } = .next cost → exec (.segWrite i) s = .next written →
    s.err = false → cost.err = false → written.err = false →
    written.bitLen.toNat = s.bitLen.toNat + cost.result.toNat

/-- The errors of the segment commands, in the order of their rules (`42_segment.md` R163-R168).
That the mode codes do not follow MODE_IND is the model's choice (log entry 12). -/
def Obligations.SegErrors : Prop :=
  ∀ (s : State) (c : Instr) (i : Nat), i < 16 → c = .segClassify i ∨ c = .segCost i ∨ c = .segWrite i →
    (s.segMode i ∉ [0, 1, 2, 4] → exec c s = .next (s.failed 0x32)) ∧
    (s.segMode i ∈ [0, 1, 2, 4] →
      (s.params.dataMax < s.segOffset i + s.segCount i → exec c s = .next (s.failed 0x42)) ∧
      (s.segOffset i + s.segCount i ≤ s.params.dataMax →
        (s.segMode i = 1 ∧ ¬AllDigits (s.segPayload i) ∨ s.segMode i = 2 ∧ ¬AllAlphanumeric (s.segPayload i) →
          exec c s = .next (s.failed 0x12)))) ∧
    (∀ m, s.SegmentIs i m →
      (c = .segCost i → (s.arg0.toNat = 0 ∨ 40 < s.arg0.toNat) → exec c s = .next (s.failed 0x33)) ∧
      (c = .segWrite i → (s.resVersion.toNat = 0 ∨ 40 < s.resVersion.toNat) → exec c s = .next (s.failed 0x33)) ∧
      (c = .segWrite i → 1 ≤ s.resVersion.toNat → s.resVersion.toNat ≤ 40 →
        s.params.bbMaxBits < s.bitLen.toNat + segmentCost s.params m (s.segCount i) s.resVersion.toNat →
        exec c s = .next (s.failed 0x41)))

/-! ## The bit buffer -/

/-- BB_CLEAR: every BB byte reads 0, BITLEN is 0, nothing else changes (`43_bitbuffer.md` R180, R185). That BB's last byte
is one of them where BB_MAX_BITS is no multiple of 8 is the model's (log entry 13). -/
def Obligations.BbClearResult : Prop :=
  (∀ s : State, s.params.Fits →
    ∃ t, exec .bbClear s = .next t ∧ t = { s.completed with mem := t.mem, bitLen := 0 } ∧
      (∀ i, i < (s.params.bbMaxBits + 7) / 8 → t.byteAt (0x005000 + i) = 0) ∧
      s.sameOutside t 0x005000 (0x005000 + (s.params.bbMaxBits + 7) / 8)) ∧
  IllegalWhere 0x28 0xFFFFFF00

/-- BB_PUT appends the low WIDTH bits of ARG0, most significant first (`43_bitbuffer.md` R181, R182). -/
def Obligations.BbPutResult : Prop :=
  (∀ (s : State) (width : Nat), s.params.Fits → width ≤ 32 → s.bitLen.toNat + width ≤ s.params.bbMaxBits →
    ∃ t, exec (.bbPut width) s = .next t ∧ s.AppendedBits t width ∧
      t.bbNumber s.bitLen.toNat width = s.arg0.toNat % 2 ^ width) ∧
  (∀ (s : State) (width : Nat), 32 < width → exec (.bbPut width) s = .next (s.failed 0x45)) ∧
  (∀ (s : State) (width : Nat), width ≤ 32 → s.params.bbMaxBits < s.bitLen.toNat + width →
    exec (.bbPut width) s = .next (s.failed 0x41)) ∧
  IllegalWhere 0x29 0x0000FF00

/-- BB_EOM appends four zero bits where they fit in MAXBITS, and nothing where they do not
(`43_bitbuffer.md` R183). -/
def Obligations.BbEomResult : Prop :=
  (∀ (s : State) (max : Nat), s.params.Fits → s.bitLen.toNat + 4 ≤ max → s.bitLen.toNat + 4 ≤ s.params.bbMaxBits →
    ∃ t, exec (.bbEom max) s = .next t ∧ s.AppendedBits t 4 ∧ t.bbNumber s.bitLen.toNat 4 = 0) ∧
  (∀ (s : State) (max : Nat), s.bitLen.toNat + 4 ≤ max → s.params.bbMaxBits < s.bitLen.toNat + 4 →
    exec (.bbEom max) s = .next (s.failed 0x41)) ∧
  (∀ (s : State) (max : Nat), max < s.bitLen.toNat + 4 → exec (.bbEom max) s = .next s.completed) ∧
  IllegalWhere 0x2A 0x0000FF00

/-- BB_PAD appends zero bits up to the byte boundary, then 0xEC, 0x11 in turn until BITLEN reaches TARGET
(`43_bitbuffer.md` R184). -/
def Obligations.BbPadResult : Prop :=
  (∀ (s : State) (target a pads : Nat), s.params.Fits → a % 8 = 0 → s.bitLen.toNat ≤ a → a < s.bitLen.toNat + 8 →
    target ≤ a + 8 * pads → (pads = 0 ∨ a + 8 * pads < target + 8) → a + 8 * pads ≤ s.params.bbMaxBits →
    ∃ t, exec (.bbPad target) s = .next t ∧ s.AppendedBits t (a + 8 * pads - s.bitLen.toNat) ∧
      t.bbNumber s.bitLen.toNat (a - s.bitLen.toNat) = 0 ∧
      ∀ k, k < pads → t.bbNumber (a + 8 * k) 8 = if k % 2 = 0 then 0xEC else 0x11) ∧
  (∀ (s : State) (target a pads : Nat), a % 8 = 0 → s.bitLen.toNat ≤ a → a < s.bitLen.toNat + 8 →
    target ≤ a + 8 * pads → (pads = 0 ∨ a + 8 * pads < target + 8) →
    s.params.bbMaxBits < a + 8 * pads →
    exec (.bbPad target) s = .next (s.failed 0x41)) ∧
  IllegalWhere 0x2B 0x0000FF00

/-- The source's terminator and the standard's partial terminator give the same buffer: BB_EOM #M then BB_PAD #M equals
`min(4, M - BITLEN)` zero bits (a BB_PUT of 0) then BB_PAD #M (`43_bitbuffer.md` R186). -/
def Obligations.TerminatorEquivalence : Prop :=
  ∀ (s e p : State) (m : Nat), s.params.Fits → m % 8 = 0 → m ≤ s.params.bbMaxBits → s.bitLen.toNat ≤ m →
    exec (.bbEom m) s = .next e → exec (.bbPut (min 4 (m - s.bitLen.toNat))) { s with arg0 := 0 } = .next p →
    ∃ t u, exec (.bbPad m) e = .next t ∧ exec (.bbPad m) p = .next u ∧
      t.bitLen.toNat = m ∧ u.bitLen.toNat = m ∧ ∀ i, i < 4096 → t.byteAt (0x005000 + i) = u.byteAt (0x005000 + i)

/-! ## Error correction -/

/-- EC_INFO answers the block count, the error codewords per block, the total and the capacity of the table's groups
(`44_codeword.md` R200, R202-R204).
How a table or a number that the defaults do not show is read is the model's choice (log entry 15). -/
def Obligations.EcInfoResult : Prop :=
  (∀ (s : State) (v : Nat), 1 ≤ v → v ≤ 40 → s.arg0.toNat = v →
    exec .ecInfo s = .next { s.completed with
      ecNBlocks := BitVec.ofNat 8 (blockCount (s.params.ecGroups v s.cfgLevel))
      ecEcpb := BitVec.ofNat 8 (firstError (s.params.ecGroups v s.cfgLevel))
      ecTotal := BitVec.ofNat 16 (totalCount (s.params.ecGroups v s.cfgLevel))
      result := BitVec.ofNat 32 (8 * dataCount (s.params.ecGroups v s.cfgLevel)) }) ∧
  (∀ s : State, s.arg0.toNat = 0 ∨ 40 < s.arg0.toNat → exec .ecInfo s = .next (s.failed 0x33)) ∧
  IllegalWhere 0x30 0xFFFFFF00

/-- RS_ASSEMBLE of a full buffer completes, without any domain error, for every version and level of the default
EC_TABLE (log entry 5): CW holds the interleaved data and error codewords, and nothing else changes but CWLEN and ECINFO
(`44_codeword.md` R203, R206, R208, R209). -/
def Obligations.RsAssembleResult : Prop :=
  ∀ (s : State) (v : Nat), s.params = Params.default → 1 ≤ v → v ≤ 40 → s.resVersion.toNat = v →
    s.bitLen.toNat = 8 * dataCount (s.params.ecGroups v s.cfgLevel) →
    ∃ (t : State) (ecs : List (List Byte)),
      exec .rsAssemble s = .next t ∧
      t = { s.completed with
        mem := t.mem
        draws := t.draws
        cwLen := BitVec.ofNat 16 (totalCount (s.params.ecGroups v s.cfgLevel))
        ecNBlocks := BitVec.ofNat 8 (blockCount (s.params.ecGroups v s.cfgLevel))
        ecEcpb := BitVec.ofNat 8 (firstError (s.params.ecGroups v s.cfgLevel))
        ecTotal := BitVec.ofNat 16 (totalCount (s.params.ecGroups v s.cfgLevel)) } ∧
      ecs.length = blockCount (s.params.ecGroups v s.cfgLevel) ∧
      (∀ j, j < ecs.length →
        ErrorCodewordsOf (s.blockData (expandGroups (s.params.ecGroups v s.cfgLevel)) j)
          ((expandGroups (s.params.ecGroups v s.cfgLevel)).getD j ⟨0, 0⟩).error (ecs.getD j [])) ∧
      (List.range (totalCount (s.params.ecGroups v s.cfgLevel))).map t.codeword =
        interleave ((List.range ecs.length).map (s.blockData (expandGroups (s.params.ecGroups v s.cfgLevel)))) ecs ∧
      s.sameOutside t 0x006000 0x007000

/-- The errors of RS_ASSEMBLE, in order: the version, a buffer over the capacity, a buffer short of it
(`44_codeword.md` R206).
How a table or a number that the defaults do not show is read is the model's choice (log entry 15). -/
def Obligations.RsAssembleErrors : Prop :=
  (∀ s : State, s.resVersion.toNat = 0 ∨ 40 < s.resVersion.toNat → exec .rsAssemble s = .next (s.failed 0x33)) ∧
  (∀ (s : State) (v : Nat), 1 ≤ v → v ≤ 40 → s.resVersion.toNat = v →
    (8 * dataCount (s.params.ecGroups v s.cfgLevel) < s.bitLen.toNat → exec .rsAssemble s = .next (s.failed 0x21)) ∧
    (s.bitLen.toNat < 8 * dataCount (s.params.ecGroups v s.cfgLevel) → exec .rsAssemble s = .next (s.failed 0x44))) ∧
  IllegalWhere 0x31 0xFFFFFF00

/-- The order of interleaving: position by position over the blocks, a shorter block skipped, data codewords before
error codewords (`44_codeword.md` R207). The blocks are `m` of length `n`, then `k` of length `n` + 1. -/
def Obligations.InterleaveOrder : Prop :=
  ∀ (ds : List (List Byte)) (es : List (List Byte)) (m k n e : Nat), ds.length = m + k → es.length = m + k → 1 ≤ m →
    (∀ j, j < m → (ds.getD j []).length = n) → (∀ j, m ≤ j → j < m + k → (ds.getD j []).length = n + 1) →
    (∀ j, j < m + k → (es.getD j []).length = e) →
    (interleave ds es).length = (m + k) * n + k + (m + k) * e ∧
    (∀ i j, i < n → j < m + k → (interleave ds es)[i * (m + k) + j]? = (ds.getD j [])[i]?) ∧
    (∀ j, j < k → (interleave ds es)[n * (m + k) + j]? = (ds.getD (m + j) [])[n]?) ∧
    (∀ i j, i < e → j < m + k → (interleave ds es)[n * (m + k) + k + i * (m + k) + j]? = (es.getD j [])[i]?)

/-- A block with its error codewords is a multiple of the generator: its value at gexp(0), ..., gexp(e - 1) is 0
(derived from `41_poly.md` R144, R145 and `44_codeword.md` R206). -/
def Obligations.BlocksVanishAtRoots : Prop :=
  ∀ (data c : List Byte) (e i : Nat), e ≤ 254 → 1 ≤ data.length → ErrorCodewordsOf data e c → i < e →
    polyEval (expRom i) (data ++ c) = 0

/-! ## Matrices -/

/-- MX_TEMPLATE stores the template for RES.VERSION and sets TPLVER; with the default ALIGN_POS (log entry 5) every cell
is what its position says: finders, separators, alignment patterns, timing patterns, UNSET elsewhere; nothing outside
TPL changes (`45_matrix.md` R230-R234, R236, R237). -/
def Obligations.MxTemplateResult : Prop :=
  (∀ s : State, 1 ≤ s.resVersion.toNat → s.resVersion.toNat ≤ 40 →
    ∃ t, exec .mxTemplate s = .next t ∧
      t = { s.completed with mem := t.mem, draws := t.draws, tplVer := s.resVersion } ∧
      (s.params = Params.default → ∀ r c, r < 4 * s.resVersion.toNat + 17 → c < 4 * s.resVersion.toNat + 17 →
        t.cell .tpl r c = templateCell s.params s.resVersion.toNat r c) ∧
      s.sameOutside t 0x010000 0x018000) ∧
  (∀ s : State, s.resVersion.toNat = 0 ∨ 40 < s.resVersion.toNat → exec .mxTemplate s = .next (s.failed 0x33)) ∧
  IllegalWhere 0x40 0xFFFFFF00

/-- The data mapping. The sweep takes the column pairs from the right, passing column 6 by, each pair row by row, the
right column of a row before the left; the first pair goes upward, and the direction alternates. It visits every cell
outside column 6 exactly once and none of column 6. The k-th UNSET cell of an order takes codeword bit k, inverted where
the mask predicate holds and 0 past the codewords; every other cell stays (`45_matrix.md` R242, R243). -/
def Obligations.DataMapping : Prop :=
  (∀ v p k b, 1 ≤ v → v ≤ 40 → p < 2 * v + 8 → k < 4 * v + 17 → b < 2 →
    let n := 4 * v + 17
    let right := if 6 < n - 1 - 2 * p then n - 1 - 2 * p else n - 2 - 2 * p
    (sweep n)[2 * n * p + 2 * k + b]? = some (if p % 2 = 0 then n - 1 - k else k, right - b)) ∧
  (∀ v, 1 ≤ v → v ≤ 40 → (sweep (4 * v + 17)).length = (4 * v + 17) * (4 * v + 16) ∧ (sweep (4 * v + 17)).Nodup ∧
    ∀ r c, (r, c) ∈ sweep (4 * v + 17) ↔ r < 4 * v + 17 ∧ c < 4 * v + 17 ∧ c ≠ 6) ∧
  (∀ m r c, m < 8 →
    (maskBit m r c = true ↔
      [(r + c) % 2, r % 2, c % 3, (r + c) % 3, (r / 2 + c / 3) % 2, r * c % 2 + r * c % 3,
        (r * c % 2 + r * c % 3) % 2, (r * c % 3 + (r + c) % 2) % 2][m]? = some 0)) ∧
  (∀ (n m : Nat) (order : List (Nat × Nat)) (bits : List Bool) (g : Grid), g.isSquare n → order.Nodup →
    (∀ p ∈ order, p.1 < n ∧ p.2 < n) →
    (∀ k r c, (order.filter fun p => g.get p.1 p.2 = cellUnset)[k]? = some (r, c) →
      (placeData m order bits g).get r c = if (bits.getD k false ^^ maskBit m r c) then 0x02 else 0x01) ∧
    (∀ r c, r < n → c < n → ((r, c) ∉ order ∨ g.get r c ≠ cellUnset) →
      (placeData m order bits g).get r c = g.get r c))

/-- MX_TRIAL stores `trial(m, test)` in TRIAL[m]; nothing else changes. Cell by cell: with test = 1 the 30 format cells
and (v ≥ 7) the 36 version cells are LIGHT and the fixed module is TRIAL_DARK_MODULE, with test = 0 they hold the format
and version information and the fixed module is DARK; the template's cells stay; the data cells take the codeword bits
under the mask (`45_matrix.md` R235, R239-R245). The premise on TPLVER is the invariant `RegistersBounded`. -/
def Obligations.MxTrialResult : Prop :=
  ∀ (s : State) (m : Nat) (test : Bool), s.tplVer ≠ 0 → s.tplVer.toNat ≤ 40 → m ≤ 7 →
    ∃ t, exec (.mxTrial m test) s = .next t ∧ t = { s.completed with mem := t.mem, draws := t.draws } ∧
      (∀ r c, r < moduleCount s.tplVer.toNat → c < moduleCount s.tplVer.toNat →
        t.cell (.trial m) r c = (trial s m test).get r c) ∧
      s.TrialIn t (.trial m) m test ∧
      s.sameOutside t (0x020000 + 0x8000 * m) (0x028000 + 0x8000 * m)

/-- MX_SCORE scores TRIAL[m] as it stands into PEN[m] and RESULT (`45_matrix.md` R250, R255). The premise on TPLVER is
the invariant `RegistersBounded`. -/
def Obligations.MxScoreResult : Prop :=
  ∀ (s : State) (m : Nat) (hm : m < 8), s.tplVer ≠ 0 → s.tplVer.toNat ≤ 40 →
    let p := scoreOf (4 * s.tplVer.toNat + 17) fun r c => decide (s.cell (.trial m) r c = 0x02)
    exec (.mxScore m) s =
      .next { s.completed with pen := s.pen.set m (BitVec.ofNat 32 p), result := BitVec.ofNat 32 p }

/-- MX_EVAL completes; BEST is the least index of the minimum of the new PEN (`45_matrix.md` R261, R262). -/
def Obligations.MxEvalBest : Prop :=
  ∀ s : State, s.tplVer ≠ 0 →
    ∃ t, exec .mxEval s = .next t ∧
      t = { s.completed with mem := t.mem, draws := t.draws, pen := t.pen, best := t.best } ∧
      (∀ m : Fin 8, (t.pen.get (t.best.toFin)).toNat ≤ (t.pen.get m).toNat) ∧
      (∀ m : Fin 8, m.val < t.best.toNat → (t.pen.get (t.best.toFin)).toNat < (t.pen.get m).toNat) ∧
      s.sameOutside t 0x020000 0x060000

/-- The result of MX_EVAL is that of MX_TRIAL #m, test=1 and MX_SCORE #m for m = 0, ..., 7 in turn
(`45_matrix.md` R262, R263). The premise on TPLVER is the invariant `RegistersBounded`. -/
def Obligations.EvalEqualsSequence : Prop :=
  ∀ (s t : State), s.tplVer ≠ 0 → s.tplVer.toNat ≤ 40 → exec .mxEval s = .next t →
    ∃ u : Nat → State, u 0 = s ∧
      (∀ m, m < 8 → ∃ mid, exec (.mxTrial m true) (u m) = .next mid ∧ exec (.mxScore m) mid = .next (u (m + 1))) ∧
      t = { u 8 with result := s.result, best := t.best }

/-- MX_COMMIT stores `trial(m, 0)` in FINAL, with m the MASK field or BEST, and records version and mask
(`45_matrix.md` R239-R244, R266). The premise on TPLVER is the invariant `RegistersBounded`. -/
def Obligations.MxCommitResult : Prop :=
  ∀ (s : State) (mask m : Nat) (useBest : Bool), s.tplVer ≠ 0 → s.tplVer.toNat ≤ 40 →
    m = (if useBest then s.best.toNat else mask) → m ≤ 7 →
    ∃ t, exec (.mxCommit mask useBest) s = .next t ∧
      t = { s.completed with
        mem := t.mem, draws := t.draws, finalVer := s.tplVer, resMask := BitVec.ofNat 3 m } ∧
      (∀ r c, r < moduleCount s.tplVer.toNat → c < moduleCount s.tplVer.toNat →
        t.cell .final r c = (trial s m false).get r c) ∧
      s.TrialIn t .final m false ∧
      s.sameOutside t 0x018000 0x020000

/-- After a commit FINAL is complete: no UNSET cell, the format cells hold `fmt(CFG.LEVEL, m)`, the fixed module is
DARK, and for v ≥ 7 the version cells hold `ver(v)` (`45_matrix.md` R239-R241, R267). The premise that TPL holds the
template is the invariant `TemplateHeld`. -/
def Obligations.CommittedSymbol : Prop :=
  ∀ (s t : State) (mask m : Nat) (useBest : Bool), s.TemplateHeld → s.tplVer ≠ 0 →
    m = (if useBest then s.best.toNat else mask) → m ≤ 7 → exec (.mxCommit mask useBest) s = .next t →
    let v := s.tplVer.toNat
    let n := 4 * v + 17
    let fmt := formatInfo s.params s.cfgLevel m
    let ver := versionInfo s.params v
    (∀ r c, r < n → c < n → t.cell .final r c = 0x01 ∨ t.cell .final r c = 0x02) ∧
    (∀ i, i < 15 →
      t.cell .final (if i ≤ 5 then i else if i ≤ 7 then i + 1 else n - 15 + i) 8 =
          (if fmt.testBit i then 0x02 else 0x01) ∧
        t.cell .final 8 (if i ≤ 7 then n - 1 - i else if i = 8 then 7 else 14 - i) =
          (if fmt.testBit i then 0x02 else 0x01)) ∧
    t.cell .final (n - 8) 8 = 0x02 ∧
    (7 ≤ v → ∀ i, i < 18 →
      t.cell .final (i / 3) (n - 11 + i % 3) = (if ver.testBit i then 0x02 else 0x01) ∧
        t.cell .final (n - 11 + i % 3) (i / 3) = (if ver.testBit i then 0x02 else 0x01))

/-- MX_READ: 1 for a DARK cell and 0 otherwise, a range error outside the matrix and while FINALVER = 0
(`45_matrix.md` R268). -/
def Obligations.MxReadResult : Prop :=
  (∀ (s : State) (r c : Nat), s.finalVer ≠ 0 → s.arg0.toInt = r → s.arg1.toInt = c →
    r < 4 * s.finalVer.toNat + 17 → c < 4 * s.finalVer.toNat + 17 →
    exec .mxRead s = .next { s.completed with result := if s.cell .final r c = 0x02 then 1 else 0 }) ∧
  (∀ s : State,
    (s.finalVer = 0 ∨ s.arg0.toInt < 0 ∨ (4 * s.finalVer.toNat + 17 : Int) ≤ s.arg0.toInt ∨ s.arg1.toInt < 0 ∨
      (4 * s.finalVer.toNat + 17 : Int) ≤ s.arg1.toInt) →
    exec .mxRead s = .next (s.failed 0x30)) ∧
  IllegalWhere 0x45 0xFFFFFF00

/-- The errors of the trial commands: no template first, then the mask index; MX_COMMIT ignores MASK where USE_BEST
is set (`45_matrix.md` R245, R255, R262, R266). -/
def Obligations.MxErrors : Prop :=
  (∀ (s : State) (m : Nat) (b : Bool), s.tplVer = 0 →
    exec (.mxTrial m b) s = .next (s.failed 0x43) ∧ exec (.mxScore m) s = .next (s.failed 0x43) ∧
      exec .mxEval s = .next (s.failed 0x43) ∧ exec (.mxCommit m b) s = .next (s.failed 0x43)) ∧
  (∀ (s : State) (m : Nat) (b : Bool), s.tplVer ≠ 0 → 7 < m →
    exec (.mxTrial m b) s = .next (s.failed 0x31) ∧ exec (.mxScore m) s = .next (s.failed 0x31) ∧
      exec (.mxCommit m false) s = .next (s.failed 0x31))

/-! ## The encoder -/

/-- NOP: nothing beyond the command protocol (`46_encoder.md` R280). -/
def Obligations.NopResult : Prop :=
  (∀ s : State, exec .nop s = .next s.completed) ∧ IllegalWhere 0x00 0xFFFFFF00

/-- VER_SELECT takes an explicit version without a capacity check; its search answers the least version whose capacity
strictly exceeds the required bits, and a capacity error where MAXVER allows none; RES.MODE is the mode of segment 0
(`46_encoder.md` R281-R283, R285).
That the mode codes do not follow MODE_IND is the model's choice (log entry 12). -/
def Obligations.VerSelectResult : Prop :=
  ∀ (s : State) (mode : Nat → Nat), 1 ≤ s.nseg.toNat → s.nseg.toNat ≤ s.params.segMax →
    (∀ i, i < s.nseg.toNat → s.SegmentIs i (mode i)) →
    let fits := fun v => sumBelow s.nseg.toNat (fun i => segmentCost s.params (mode i) (s.segCount i) v) <
      8 * dataCount (s.params.ecGroups v s.cfgLevel)
    (s.cfgVersion ≠ 0 → s.cfgVersion.toNat ≤ s.cfgMaxVer.toNat → s.cfgVersion.toNat ≤ 40 →
      exec .verSelect s =
        .next { s.completed with resVersion := s.cfgVersion, resMode := BitVec.ofNat 4 (mode 0) }) ∧
    (∀ v, s.cfgVersion = 0 → 1 ≤ v → v ≤ 40 → v ≤ s.cfgMaxVer.toNat → fits v → (∀ u, 1 ≤ u → u < v → ¬fits u) →
      exec .verSelect s =
        .next { s.completed with resVersion := BitVec.ofNat 6 v, resMode := BitVec.ofNat 4 (mode 0) }) ∧
    (s.cfgVersion = 0 → (∀ u, 1 ≤ u → u ≤ 40 → u ≤ s.cfgMaxVer.toNat → ¬fits u) →
      exec .verSelect s = .next (s.failed (if s.cfgMaxVer.toNat ≤ 40 then 0x20 else 0x33)))

/-- The validation errors, in order, end both VER_SELECT and ENCODE and change only STATUS
(`46_encoder.md` R281, R284).
That the mode codes do not follow MODE_IND is the model's choice (log entry 12). -/
def Obligations.ValidationErrors : Prop :=
  ∀ (s : State) (c : Instr), c = .verSelect ∨ c = .encode →
    (s.nseg.toNat = 0 ∨ s.params.segMax < s.nseg.toNat → exec c s = .next (s.failed 0x10)) ∧
    (∀ k, 1 ≤ s.nseg.toNat → s.nseg.toNat ≤ s.params.segMax → k < s.nseg.toNat → (∀ i, i < k → ∃ m, s.SegmentIs i m) →
      (s.segMode k ∉ [0, 1, 2, 4] → exec c s = .next (s.failed 0x32)) ∧
      (s.segMode k ∈ [0, 1, 2, 4] → s.params.dataMax < s.segOffset k + s.segCount k → exec c s = .next (s.failed 0x42)) ∧
      (s.segOffset k + s.segCount k ≤ s.params.dataMax →
        (s.segMode k = 1 ∧ ¬AllDigits (s.segPayload k) ∨ s.segMode k = 2 ∧ ¬AllAlphanumeric (s.segPayload k)) →
        exec c s = .next (s.failed 0x12))) ∧
    (1 ≤ s.nseg.toNat → s.nseg.toNat ≤ s.params.segMax → (∀ i, i < s.nseg.toNat → ∃ m, s.SegmentIs i m) → s.cfgVersion ≠ 0 →
      (s.cfgMaxVer.toNat < s.cfgVersion.toNat → exec c s = .next (s.failed 0x11)) ∧
      (s.cfgVersion.toNat ≤ s.cfgMaxVer.toNat → 40 < s.cfgVersion.toNat → exec c s = .next (s.failed 0x33)))

/-- ENCODE succeeds whenever the version VER_SELECT resolves can hold the data: every step completes, the state is that
of the named commands run one after another, and the registers hold what their steps left (`46_encoder.md` R284, R285).
The only premises are on the inputs, at the default parameters (log entry 5). -/
def Obligations.EncodeSucceeds : Prop :=
  ∀ (s : State) (mode : Nat → Nat) (v : Nat), s.params = Params.default → 1 ≤ s.nseg.toNat → s.nseg.toNat ≤ 16 →
    (∀ i, i < s.nseg.toNat → s.SegmentIs i (mode i)) → 1 ≤ v → v ≤ 40 → v ≤ s.cfgMaxVer.toNat →
    let needs := fun u => sumBelow s.nseg.toNat fun i => segmentCost s.params (mode i) (s.segCount i) u
    let holds := fun u => 8 * dataCount (s.params.ecGroups u s.cfgLevel)
    (s.cfgVersion.toNat = v ∧ needs v ≤ holds v ∨
      s.cfgVersion = 0 ∧ needs v < holds v ∧ ∀ u, 1 ≤ u → u < v → holds u ≤ needs u) →
    ∃ t, exec .encode s = .next t ∧
      s.Runs (bufferCommands s.nseg.toNat (holds v) ++ [.rsAssemble, .mxTemplate, .mxEval, .mxCommit 0 true]) t ∧
      t = { s.completed with
        mem := t.mem, draws := t.draws, pen := t.pen, best := t.best
        resVersion := BitVec.ofNat 6 v, resMode := BitVec.ofNat 4 (mode 0), resMask := t.best
        bitLen := BitVec.ofNat 16 (holds v)
        cwLen := BitVec.ofNat 16 (totalCount (s.params.ecGroups v s.cfgLevel))
        ecNBlocks := BitVec.ofNat 8 (blockCount (s.params.ecGroups v s.cfgLevel))
        ecEcpb := BitVec.ofNat 8 (firstError (s.params.ecGroups v s.cfgLevel))
        ecTotal := BitVec.ofNat 16 (totalCount (s.params.ecGroups v s.cfgLevel))
        tplVer := BitVec.ofNat 6 v, finalVer := BitVec.ofNat 6 v } ∧
      (∀ r c, r < 4 * v + 17 → c < 4 * v + 17 → t.cell .final r c = 0x01 ∨ t.cell .final r c = 0x02) ∧
      s.sameOutside t 0x005000 0x060000

/-- Where ENCODE fails after its inputs are found valid. A search that fits no version changes only STATUS. An explicit
version whose segments do not fit BB ends in the SEG_WRITE that would pass its end. One too small for the data ends in
RS_ASSEMBLE, with the data's length at the next byte boundary in BITLEN. BB keeps what the earlier steps wrote, as the
commands run one after another leave it, and no symbol is offered (`46_encoder.md` R282-R284, `60_exceptions.md` R305,
R306).
That the mode codes do not follow MODE_IND is the model's choice (log entry 12). -/
def Obligations.EncodeOverflow : Prop :=
  ∀ (s : State) (mode : Nat → Nat), 1 ≤ s.nseg.toNat → s.nseg.toNat ≤ s.params.segMax →
    (∀ i, i < s.nseg.toNat → s.SegmentIs i (mode i)) →
    let cost := fun v i => segmentCost s.params (mode i) (s.segCount i) v
    let holds := fun v => 8 * dataCount (s.params.ecGroups v s.cfgLevel)
    let u := s.cfgVersion.toNat
    let needs := sumBelow s.nseg.toNat (cost u)
    (s.cfgVersion = 0 →
      (∀ v, 1 ≤ v → v ≤ 40 → v ≤ s.cfgMaxVer.toNat → holds v ≤ sumBelow s.nseg.toNat (cost v)) →
      exec .encode s = .next (s.failed (if s.cfgMaxVer.toNat ≤ 40 then 0x20 else 0x33))) ∧
    (∀ k, s.params.Fits → 1 ≤ u → u ≤ 40 → u ≤ s.cfgMaxVer.toNat → k < s.nseg.toNat →
      sumBelow k (cost u) ≤ s.params.bbMaxBits → s.params.bbMaxBits < sumBelow (k + 1) (cost u) →
      ∃ t p, exec .encode s = .next t ∧
        t = { s.failed 0x41 with
          mem := t.mem, resVersion := s.cfgVersion, resMode := BitVec.ofNat 4 (mode 0)
          bitLen := BitVec.ofNat 16 (sumBelow k (cost u)) } ∧
        s.Runs ([.verSelect, .bbClear] ++ (List.range k).map .segWrite) p ∧ t.mem = p.mem ∧
        s.sameOutside t 0x005000 0x006000) ∧
    (s.params.Fits → 1 ≤ u → u ≤ 40 → u ≤ s.cfgMaxVer.toNat → holds u < needs →
      8 * ((needs + 7) / 8) ≤ s.params.bbMaxBits →
      ∃ t p, exec .encode s = .next t ∧
        t = { s.failed 0x21 with
          mem := t.mem, resVersion := s.cfgVersion, resMode := BitVec.ofNat 4 (mode 0)
          bitLen := BitVec.ofNat 16 (8 * ((needs + 7) / 8)) } ∧
        s.Runs (bufferCommands s.nseg.toNat (holds u)) p ∧ t.mem = p.mem ∧
        s.sameOutside t 0x005000 0x006000)

/-- Two encodings of the same inputs give the same symbol: the outcome, the resolved outputs, the penalties and every
cell of FINAL agree, whatever else the two states hold (`45_matrix.md` R267, `46_encoder.md` R285). -/
def Obligations.EncodeIsDeterministic : Prop :=
  ∀ s₁ s₂ t₁ t₂ : State, s₁.params.Fits → s₁.sameEncoderInputs s₂ → s₁.err = false → s₂.err = false →
    exec .encode s₁ = .next t₁ → exec .encode s₂ = .next t₂ →
    t₁.err = t₂.err ∧ (t₁.err = true → t₁.errCode = t₂.errCode) ∧
    (t₁.err = false →
      t₁.resVersion = t₂.resVersion ∧ t₁.resMode = t₂.resMode ∧ t₁.resMask = t₂.resMask ∧ t₁.pen = t₂.pen ∧
        t₁.bitLen = t₂.bitLen ∧ t₁.cwLen = t₂.cwLen ∧ t₁.finalVer = t₂.finalVer ∧
        ∀ r c, r < moduleCount t₁.finalVer.toNat → c < moduleCount t₁.finalVer.toNat →
          t₁.cell .final r c = t₂.cell .final r c)

/-! ## Whole-machine rules -/

/-- Errors are precise: a command other than ENCODE that fails changes no state except STATUS, and one that succeeds
reports no error. A failing ENCODE never offers a new symbol: FINALVER, FINAL, RES.MASK and RESULT stay
(`10_state.md` R25, `60_exceptions.md` R305). -/
def Obligations.ErrorsArePrecise : Prop :=
  (∀ (i : Instr) (s t : State), i ≠ .encode → s.err = false → exec i s = .next t →
    (t.err = true ∧ t = s.failed t.errCode ∧ ∃ e : ErrCode, t.errCode = e.code) ∨
      (t.err = false ∧ t.errCode = s.errCode ∧ t.done = true ∧ t.busy = false)) ∧
  (∀ s t : State, s.params.Fits → s.err = false → exec .encode s = .next t → t.err = true →
    t.finalVer = s.finalVer ∧ t.resMask = s.resMask ∧ t.result = s.result ∧ t.plen = s.plen ∧
      s.sameOutside t 0x005000 0x018000)

/-- RESULT is written only by GF_LOG, GF_EXP, SEG_CLASSIFY, SEG_COST, EC_INFO, MX_SCORE and MX_READ
(`10_state.md` R33). -/
def Obligations.OnlySevenWriteResult : Prop :=
  ∀ (i : Instr) (s t : State), exec i s = .next t →
    i = .gfLog ∨ i = .gfExp ∨ (∃ k, i = .segClassify k) ∨ (∃ k, i = .segCost k) ∨ i = .ecInfo ∨
      (∃ m, i = .mxScore m) ∨ i = .mxRead ∨ t.result = s.result

/-- No command changes a register or memory that only the host writes: ARG0, ARG1, CFG, NSEG, CTRL, SEGDESC, DATA;
none sets COLL or changes LASTOP (`10_state.md` R22, R26, R27, R29-R32, R36, R46, R47), nor the parameters, the host's
queue and the last response, which are the model's own (log entries 1, 5). -/
def Obligations.CommandsKeepHostState : Prop :=
  ∀ (i : Instr) (s t : State), exec i s = .next t →
    t.arg0 = s.arg0 ∧ t.arg1 = s.arg1 ∧ t.cfgVersion = s.cfgVersion ∧ t.cfgLevel = s.cfgLevel ∧
      t.cfgMaxVer = s.cfgMaxVer ∧ t.nseg = s.nseg ∧ t.ieDone = s.ieDone ∧ t.ieErr = s.ieErr ∧ t.coll = s.coll ∧
      t.lastOp = s.lastOp ∧ t.params = s.params ∧ t.hostQueue = s.hostQueue ∧ t.response = s.response ∧
      (s.params.Fits → ∀ a, a < 0x003000 ∨ 0x004000 ≤ a ∧ a < 0x005000 → t.byteAt a = s.byteAt a)

/-- Who writes CWLEN, TPLVER, FINALVER, ECINFO, PLEN and BEST; ENCODE is the only command that runs others
(`10_state.md` R35, R38, R39, R40; `41_poly.md` R146). -/
def Obligations.RegisterWriters : Prop :=
  ∀ (i : Instr) (s t : State), exec i s = .next t → i ≠ .encode →
    (i = .rsAssemble ∨ t.cwLen = s.cwLen) ∧ (i = .mxTemplate ∨ t.tplVer = s.tplVer) ∧
    ((∃ m b, i = .mxCommit m b) ∨ t.finalVer = s.finalVer ∧ t.resMask = s.resMask) ∧
    (i = .ecInfo ∨ i = .rsAssemble ∨ t.ecNBlocks = s.ecNBlocks ∧ t.ecEcpb = s.ecEcpb ∧ t.ecTotal = s.ecTotal) ∧
    (i = .verSelect ∨ t.resVersion = s.resVersion ∧ t.resMode = s.resMode) ∧
    (i = .mxEval ∨ t.best = s.best) ∧ (i = .mxEval ∨ (∃ m, i = .mxScore m) ∨ t.pen = s.pen) ∧
    ((∃ d k, i = .polyNorm d k) ∨ (∃ d a b, i = .polyMul d a b) ∨ (∃ d a b, i = .polyMod d a b) ∨
      (∃ d n, i = .polyGen d n) ∨ t.plen = s.plen ∧ s.sameOutside t 0x005000 0x060000)

/-- What a command does never depends on the enables, COLL and LASTOP, and it does not change them
(`10_state.md` R22, R26, R27, `60_exceptions.md` R311, `20_memory.md` R80, R86). The same of the host's queue, the last
response and the indexes of the bus's draws, which are the model's own (log entries 1, 2, 4). -/
def Obligations.CommandsIgnoreHostSide : Prop :=
  ∀ (i : Instr) (s t : State) (h : HostSide), exec i s = .next t →
    exec i (s.withHostSide h) = .next (t.withHostSide h)

/-! ## The bus -/

/-- The register table after power-on reset, as the host reads it, with no interrupt pending and BB zero, for a core
with any parameters; and every invariant holds at reset (`10_state.md` R55, `70_reset_and_hazards.md` R340). The
parameters at their defaults are the model's (log entry 5), and so is what a base does that wraps the map or is no
multiple of 4 (log entry 11). -/
def Obligations.ResetValues : Prop :=
  (∀ (p : Params) (off : Nat) (value : Word), (off, value) ∈ ([(0x000, 0x51524307), (0x004, 0), (0x008, 0), (0x00C, 0),
      (0x010, 0x00280200), (0x014, 0), (0x018, 0), (0x01C, 0), (0x020, 0), (0x024, 0), (0x028, 0), (0x02C, 0),
      (0x030, 0), (0x034, 0), (0x038, 0), (0x03C, 0), (0x040, 0), (0x044, 0), (0x048, 0), (0x04C, 0), (0x050, 0),
      (0x054, 0), (0x058, 0), (0x05C, 0), (0x060, 0), (0x064, 0), (0x068, 0), (0x06C, 0)] : List (Nat × Word)) →
    (State.resetWith p).readResponse .word (p.qrcBase + BitVec.ofNat 24 off) = { data := value, error := false }) ∧
  (∀ p : Params, (State.resetWith p).irq = false ∧ (State.resetWith p).busy = false ∧
    (∀ i, i < 4096 → (State.resetWith p).byteAt (0x005000 + i) = 0)) ∧
  State.reset = State.resetWith Params.default ∧
  State.reset.MemoryCanonical ∧ State.reset.StatusConsistent ∧ State.reset.RegistersBounded ∧
  State.reset.BufferTailZero ∧ State.reset.TemplateHeld ∧ State.reset.FinalComplete

/-- A rejected access has no effect and reads 0 (a read while BUSY draws its free values all the same, log entry 4): a
narrow or misaligned register access, an unmapped address, a misaligned window access (`20_memory.md` R72-R74,
`60_exceptions.md` R308). Addresses are offsets from QRC_BASE (R71); that they wrap with a high base, and that alignment
is the offset's under a base that is no multiple of 4, is the model's choice (log entry 11). -/
def Obligations.BusErrors : Prop :=
  ∀ (s : State) (width : Width) (a : BitVec 24) (value : Word),
    a.toNat % width.bytes ≠ 0 ∨ (a.toNat < 0x100 ∧ (width ≠ .word ∨ 0x70 ≤ a.toNat)) ∨
      (0x100 ≤ a.toNat ∧ a.toNat < 0x1000) ∨ (0x1200 ≤ a.toNat ∧ a.toNat < 0x2000) ∨
      (0x2080 ≤ a.toNat ∧ a.toNat < 0x3000) ∨ (0x3400 ≤ a.toNat ∧ a.toNat < 0x4000) ∨
      (0x7000 ≤ a.toNat ∧ a.toNat < 0x10000) ∨ 0x60000 ≤ a.toNat →
    s.readResponse width (s.params.qrcBase + a) = { data := 0, error := true } ∧
      s.hostRead width (s.params.qrcBase + a) =
        { s with
          response := some { data := 0, error := true }
          draws := (s.hostRead width (s.params.qrcBase + a)).draws } ∧
      ∃ data, s.hostWrite width (s.params.qrcBase + a) value = { s with response := some { data := data, error := true } }

/-- Byte order: a 16- or 32-bit read of a window returns the bytes that 8-bit reads at the same addresses return, the
lowest address in bits [7:0], and a write to a host-writable window stores its bytes so and nothing else
(`20_memory.md` R75, R76, R79; log entry 11 for a base that wraps the map or is no multiple of 4). -/
def Obligations.ByteOrder : Prop :=
  (∀ (s : State) (width : Width) (a : BitVec 24) (i : Nat), s.busy = false → i < width.bytes →
    a.toNat % width.bytes = 0 → 0x1000 ≤ a.toNat → (s.readResponse width (s.params.qrcBase + a)).error = false →
    (s.readResponse .byte (s.params.qrcBase + (a + BitVec.ofNat 24 i))).error = false ∧
      (s.readResponse .byte (s.params.qrcBase + (a + BitVec.ofNat 24 i))).data.extractLsb' 0 8 =
        (s.readResponse width (s.params.qrcBase + a)).data.extractLsb' (8 * i) 8) ∧
  (∀ (s : State) (width : Width) (a : BitVec 24) (value : Word), s.busy = false → a.toNat % width.bytes = 0 →
    (0x2000 ≤ a.toNat ∧ a.toNat < 0x2080 ∨ 0x3000 ≤ a.toNat ∧ a.toNat < 0x3400 ∨ 0x4000 ≤ a.toNat ∧ a.toNat < 0x5000) →
    let t := s.hostWrite width (s.params.qrcBase + a) value
    (∃ data, t = { s with mem := t.mem, response := some { data := data, error := false } }) ∧
      (∀ i, i < width.bytes → t.byteAt (a.toNat + i) = value.extractLsb' (8 * i) 8) ∧
      s.sameOutside t a.toNat (a.toNat + width.bytes))

/-- A write to a read-only window or a read-only register is ignored, without a bus error and without COLL, also while
BUSY; while BUSY a write to CMD, CFG, ARG0, ARG1, NSEG, PLEN, SEGDESC, DATA or PCOEF is dropped and sets COLL
(`10_state.md` R43, `20_memory.md` R78, `70_reset_and_hazards.md` R351). That this holds also under a base that wraps the
map or is no multiple of 4 is the model's choice (log entry 11). -/
def Obligations.IgnoredAndDroppedWrites : Prop :=
  (∀ (s : State) (width : Width) (a : BitVec 24) (value : Word), a.toNat % width.bytes = 0 →
    (0x1000 ≤ a.toNat ∧ a.toNat < 0x1200 ∨ 0x5000 ≤ a.toNat ∧ a.toNat < 0x7000 ∨
      0x10000 ≤ a.toNat ∧ a.toNat < 0x60000) →
    ∃ data, s.hostWrite width (s.params.qrcBase + a) value =
      { s with response := some { data := data, error := false } }) ∧
  (∀ (s : State) (off : Nat) (value : Word),
    off ∈ [0x000, 0x01C, 0x020, 0x024, 0x02C, 0x030, 0x034, 0x038, 0x03C, 0x040, 0x044, 0x048, 0x04C, 0x050, 0x054,
      0x058, 0x05C] →
    ∃ data, s.hostWrite .word (s.params.qrcBase + BitVec.ofNat 24 off) value =
      { s with response := some { data := data, error := false } }) ∧
  (∀ (s : State) (width : Width) (a : BitVec 24) (value : Word), s.busy = true → a.toNat % width.bytes = 0 →
    (width = .word ∧ a.toNat ∈ [0x00C, 0x010, 0x014, 0x018, 0x028, 0x060, 0x064, 0x068, 0x06C] ∨
      0x2000 ≤ a.toNat ∧ a.toNat < 0x2080 ∨ 0x3000 ≤ a.toNat ∧ a.toNat < 0x3400 ∨
      0x4000 ≤ a.toNat ∧ a.toNat < 0x5000) →
    ∃ data, s.hostWrite width (s.params.qrcBase + a) value =
      { s with coll := true, response := some { data := data, error := false } })

/-- The register writes that take effect: acceptance of a command, the write-1-to-clear bits, the enables, soft reset at
any time, and the plain registers (`10_state.md` R22-R32, R36; `70_reset_and_hazards.md` R341, R350). -/
def Obligations.RegisterWrites : Prop :=
  ∀ (s : State) (w : Word),
    let after := fun (off : Nat) => s.writeEffect .word off w
    (s.busy = false → ∃ left, after 0x00C = { s with
      done := false, err := false, errCode := 0, lastOp := w.extractLsb' 0 8
      inFlight := some { word := w, left := left }
      draws := { s.draws with accepted := s.draws.accepted + 1 } }) ∧
    after 0x008 = { s with
      done := s.done && !w.getLsbD 1, err := s.err && !w.getLsbD 2
      errCode := if w.getLsbD 2 then 0 else s.errCode, coll := s.coll && !w.getLsbD 3 } ∧
    (w.getLsbD 31 = false → after 0x004 = { s with ieDone := w.getLsbD 0, ieErr := w.getLsbD 1 }) ∧
    (w.getLsbD 31 = true → ∃ d, after 0x004 =
      { State.resetWith s.params with hostQueue := s.hostQueue, response := s.response, draws := d }) ∧
    (s.busy = false →
      after 0x010 = { s with
        cfgVersion := w.extractLsb' 0 6, cfgLevel := w.extractLsb' 8 2, cfgMaxVer := w.extractLsb' 16 6 } ∧
      after 0x014 = { s with arg0 := w } ∧ after 0x018 = { s with arg1 := w } ∧
      after 0x028 = { s with nseg := w.extractLsb' 0 5 } ∧
      ∀ k : Fin 4, after (0x060 + 4 * k.val) = { s with plen := s.plen.set k.val (w.extractLsb' 0 9) })

/-- What the host reads. ID, CTRL, STATUS, CFG, ARG0, ARG1, NSEG, SEGDESC, DATA and the ROMs read as stored, also while
BUSY, and so does every other register and window while no command runs; CMD and SOFT_RESET read 0
(`10_state.md` section 2, R21-R40, R42-R47; `20_memory.md` R71, R75, R76; `70_reset_and_hazards.md` R353). A reserved
bit reads 0 (R43); that it does so while BUSY in a register the command may write is DEDUCED (log entry 4). No read
changes the core, and while no command runs a repeated read returns the same (`20_memory.md` R79). What a base does
that wraps the map or is no multiple of 4 is the model's choice (log entry 11). -/
def Obligations.RegisterAndWindowReads : Prop :=
  (∀ s : State,
    let rd := fun (off : Nat) => (s.readResponse .word (s.params.qrcBase + BitVec.ofNat 24 off)).data
    rd 0x000 = 0x51524307 ∧ (rd 0x004).toNat = s.ieDone.toNat + 2 * s.ieErr.toNat ∧
    (rd 0x008).toNat = s.busy.toNat + 2 * s.done.toNat + 4 * s.err.toNat + 8 * s.coll.toNat +
      2 ^ 8 * s.errCode.toNat + 2 ^ 16 * s.lastOp.toNat ∧
    rd 0x00C = 0 ∧
    (rd 0x010).toNat = s.cfgVersion.toNat + 2 ^ 8 * s.cfgLevel.toNat + 2 ^ 16 * s.cfgMaxVer.toNat ∧
    rd 0x014 = s.arg0 ∧ rd 0x018 = s.arg1 ∧ (rd 0x028).toNat = s.nseg.toNat ∧
    (s.busy = false →
      rd 0x01C = s.result ∧ (rd 0x020).toNat = s.bitLen.toNat ∧ (rd 0x024).toNat = s.cwLen.toNat ∧
      (rd 0x02C).toNat = s.resVersion.toNat + 2 ^ 8 * s.resMode.toNat + 2 ^ 16 * s.resMask.toNat ∧
      (rd 0x030).toNat = s.tplVer.toNat ∧ (rd 0x034).toNat = s.finalVer.toNat ∧
      (rd 0x038).toNat = s.ecNBlocks.toNat + 2 ^ 8 * s.ecEcpb.toNat + 2 ^ 16 * s.ecTotal.toNat ∧
      (rd 0x03C).toNat = s.best.toNat ∧ (∀ m : Fin 8, rd (0x040 + 4 * m.val) = s.pen.get m) ∧
      ∀ k : Fin 4, (rd (0x060 + 4 * k.val)).toNat = (s.plen.get k).toNat)) ∧
  (∀ (s : State) (off : Nat), off % 4 = 0 → off < 0x70 →
    (s.readResponse .word (s.params.qrcBase + BitVec.ofNat 24 off)).error = false) ∧
  (∀ (s : State) (a : BitVec 24),
    0x1000 ≤ a.toNat ∧ a.toNat < 0x1200 ∨ 0x2000 ≤ a.toNat ∧ a.toNat < 0x2080 ∨
      0x4000 ≤ a.toNat ∧ a.toNat < 0x5000 ∨
      s.busy = false ∧ (0x3000 ≤ a.toNat ∧ a.toNat < 0x3400 ∨ 0x5000 ≤ a.toNat ∧ a.toNat < 0x7000 ∨
        0x10000 ≤ a.toNat ∧ a.toNat < 0x60000) →
    (s.readResponse .byte (s.params.qrcBase + a)).error = false ∧
      (s.readResponse .byte (s.params.qrcBase + a)).data.extractLsb' 0 8 = s.byteAt a.toNat) ∧
  (∀ (s : State) (width : Width) (a : BitVec 24),
    s.hostRead width a = { s with response := (s.hostRead width a).response, draws := (s.hostRead width a).draws } ∧
      (∀ b, (s.hostRead width a).byteAt b = s.byteAt b) ∧
      (s.busy = false → ∀ width' a', (s.hostRead width a).readResponse width' a' = s.readResponse width' a')) ∧
  (∀ (s : State) (off : Nat) (reserved : Word),
    (off, reserved) ∈ ([(0x004, 0xFFFFFFFC), (0x008, 0xFF0000F0), (0x00C, 0xFFFFFFFF), (0x010, 0xFFC0FCC0),
      (0x020, 0xFFFF0000), (0x024, 0xFFFF0000), (0x028, 0xFFFFFFE0), (0x02C, 0xFFF8F0C0), (0x030, 0xFFFFFFC0),
      (0x034, 0xFFFFFFC0), (0x03C, 0xFFFFFFF8), (0x060, 0xFFFFFE00), (0x064, 0xFFFFFE00), (0x068, 0xFFFFFE00),
      (0x06C, 0xFFFFFE00)] : List (Nat × Word)) →
    (s.readResponse .word (s.params.qrcBase + BitVec.ofNat 24 off)).data &&& reserved = 0)

/-- The interrupt line: `IRQ = (DONE and IE_DONE) or (ERR and IE_ERR)`, and 0 from acceptance until completion
(`60_exceptions.md` R310, R311). -/
def Obligations.InterruptLine : Prop :=
  (∀ s : State, s.irq = (s.statusWord.getLsbD 1 && s.ctrlWord.getLsbD 0 || s.statusWord.getLsbD 2 && s.ctrlWord.getLsbD 1)) ∧
  (∀ s : State, s.StatusConsistent → s.busy = true → s.irq = false) ∧
  (∀ (i : Instr) (s t : State), s.StatusConsistent → s.busy = true → s.ieDone = true → exec i s = .next t → t.irq = true)

/-! ## Invariants and progress -/

/-- Every step keeps memory in its canonical form. -/
def Obligations.StepKeepsMemoryCanonical : Prop :=
  ∀ s t : State, s.MemoryCanonical → step s = .next t → t.MemoryCanonical

/-- Every step keeps STATUS consistent: no error code without an error, only codes of the table, and no report while a
command runs (`10_state.md` R23-R25, `60_exceptions.md` R301). -/
def Obligations.StepKeepsStatusConsistent : Prop :=
  ∀ s t : State, s.StatusConsistent → step s = .next t → t.StatusConsistent

/-- Every step keeps the bits of BB from BITLEN on at 0, and BITLEN and the other command-written registers in their
ranges (`10_state.md` R34, `43_bitbuffer.md` R185). -/
def Obligations.StepKeepsBuffer : Prop :=
  ∀ s t : State, s.RegistersBounded → s.BufferTailZero → step s = .next t → t.RegistersBounded ∧ t.BufferTailZero

/-- Every step keeps TPL the template of TPLVER and FINAL complete (`10_state.md` R50, R52, `45_matrix.md` R267), on a
core whose stores lie in their windows, which every step keeps too (log entry 5). -/
def Obligations.StepKeepsMatrices : Prop :=
  ∀ s t : State, s.params.Fits → s.TemplateHeld → s.FinalComplete → step s = .next t →
    t.params.Fits ∧ t.TemplateHeld ∧ t.FinalComplete

/-- Every accepted command completes, in exactly its latency, unless a soft reset abandons it, and what it does is what
its word does on the inputs it was accepted with (`20_memory.md` R86, `70_reset_and_hazards.md` R350, R352). The latency
is a free value and the host's queue is the model's (log entries 1, 2); log entry 11 for CTRL's address. -/
def Obligations.AcceptedCommandCompletes : Prop :=
  ∀ (s : State) (w : Word) (n : Nat), s.inFlight = some { word := w, left := n } → s.done = false → s.err = false →
    s.errCode = 0 → (∀ a ∈ s.hostQueue.take n, a.softResets s.params.qrcBase = false) →
    ∃ t u h, core.run (n + 1) s = .next t ∧ t.busy = false ∧ t.done = true ∧ t.lastOp = s.lastOp ∧
      runWord w s = .next u ∧ t = u.withHostSide h
end

