-- ==== Sys2Proof/Laws/Memory.lean ====
section
/-! SUPPORT. The laws of memory: a read after a write to the same place gives the value written, a write leaves every
other place alone, and every operation keeps the canonical form. -/

namespace Sys2Proof.Machine

/-! ## Lookup -/

theorem Memory.lookup_insert_same (m : List Host.Cell) (a : Nat) (v : Byte) :
    Memory.lookup (Memory.insert m a v) a = some v := by
  induction m with
  | nil => simp [Memory.insert, Memory.lookup]
  | cons c rest ih =>
    obtain ⟨b, w⟩ := c
    simp only [Memory.insert]
    split
    · simp [Memory.lookup]
    · split
      · simp [Memory.lookup]
      · rename_i h
        simp [Memory.lookup, Ne.symm h, ih]

theorem Memory.lookup_insert_other (m : List Host.Cell) {a b : Nat} (v : Byte) (h : b ≠ a) :
    Memory.lookup (Memory.insert m a v) b = Memory.lookup m b := by
  induction m with
  | nil => simp [Memory.insert, Memory.lookup, Ne.symm h]
  | cons c rest ih =>
    obtain ⟨k, w⟩ := c
    simp only [Memory.insert]
    split
    · simp [Memory.lookup, Ne.symm h]
    · split
      · rename_i hk
        subst hk
        simp [Memory.lookup, Ne.symm h]
      · simp [Memory.lookup, ih]

theorem Memory.lookup_filter (m : List Host.Cell) (p : Host.Cell → Bool) (a : Nat) (keep : Bool)
    (h : ∀ v, p (a, v) = keep) :
    Memory.lookup (m.filter p) a = if keep then Memory.lookup m a else none := by
  induction m with
  | nil => simp [Memory.lookup]
  | cons c rest ih =>
    obtain ⟨b, v⟩ := c
    by_cases hb : b = a
    · subst hb
      cases keep <;> simp [h, Memory.lookup, ih]
    · by_cases hp : p (b, v) <;> simp [hp, Memory.lookup, hb, ih]

theorem Memory.lookup_append (m n : List Host.Cell) (a : Nat) :
    Memory.lookup (m ++ n) a = (Memory.lookup m a).or (Memory.lookup n a) := by
  induction m with
  | nil => simp [Memory.lookup]
  | cons c rest ih =>
    obtain ⟨b, v⟩ := c
    by_cases hb : b = a <;> simp [Memory.lookup, hb, ih]

theorem Memory.lookup_erase_same (m : List Host.Cell) (a : Nat) : Memory.lookup (Memory.erase m a) a = none := by
  rw [Memory.erase, Memory.lookup_filter m _ a false (by simp)]
  rfl

theorem Memory.lookup_erase_other (m : List Host.Cell) {a b : Nat} (h : b ≠ a) :
    Memory.lookup (Memory.erase m a) b = Memory.lookup m b := by
  rw [Memory.erase, Memory.lookup_filter m _ b true (by simp [h])]
  rfl

/-! ## Reading after writing -/

theorem Memory.get_set_same (m : List Host.Cell) {a : Nat} (v : Byte) (h : Memory.writable a = true) :
    Memory.get (Memory.set m a v) a = some v := by
  by_cases hu : Memory.unlisted a = some v
  · simp [Memory.get, Memory.set, h, hu, Memory.lookup_erase_same]
  · simp [Memory.get, Memory.set, h, hu, Memory.lookup_insert_same]

theorem Memory.get_set_other (m : List Host.Cell) {a b : Nat} (v : Byte) (h : b ≠ a) :
    Memory.get (Memory.set m a v) b = Memory.get m b := by
  by_cases ha : Memory.writable a = true
  · by_cases hu : Memory.unlisted a = some v
    · simp [Memory.get, Memory.set, ha, hu, Memory.lookup_erase_other m h]
    · simp [Memory.get, Memory.set, ha, hu, Memory.lookup_insert_other m v h]
  · simp [Memory.set, ha]

/-- An address whose byte cannot change reads as it always does, whatever is listed. -/
theorem Memory.get_of_not_writable (m : List Host.Cell) {a : Nat} (h : Memory.writable a = false) :
    Memory.get m a = Memory.unlisted a := by
  simp [Memory.get, h]

theorem Memory.get_setBytes_other (m : List Host.Cell) (bytes : List Byte) {a b : Nat}
    (h : b < a ∨ a + bytes.length ≤ b) : Memory.get (Memory.setBytes m a bytes) b = Memory.get m b := by
  induction bytes generalizing m a with
  | nil => rfl
  | cons v rest ih =>
    simp only [List.length_cons] at h
    rw [Memory.setBytes, ih _ (by omega), Memory.get_set_other m v (by omega)]

theorem Memory.get_setBytes_at (m : List Host.Cell) (bytes : List Byte) {a i : Nat} (hi : i < bytes.length)
    (hw : Memory.writable (a + i) = true) :
    Memory.get (Memory.setBytes m a bytes) (a + i) = some bytes[i] := by
  induction bytes generalizing m a i with
  | nil => simp at hi
  | cons v rest ih =>
    rw [Memory.setBytes]
    cases i with
    | zero =>
      rw [Memory.get_setBytes_other _ rest (by omega)]
      simpa using Memory.get_set_same m v hw
    | succ j =>
      have hj : j < rest.length := by simpa using hi
      have := ih (Memory.set m a v) (a := a + 1) hj (by simpa [Nat.add_assoc, Nat.add_comm 1 j] using hw)
      simpa [Nat.add_assoc, Nat.add_comm 1 j] using this

theorem Memory.get_slice (m : List Host.Cell) {base len a : Nat} (h : base ≤ a ∧ a < base + len) :
    Memory.get (Memory.slice m base len) a = Memory.get m a := by
  simp only [Memory.get, Memory.slice]
  rw [Memory.lookup_filter m _ a true (by simp [h])]
  rfl

theorem Memory.lookup_replace_inside (m cells : List Host.Cell) {base len a : Nat}
    (h : base ≤ a ∧ a < base + len) :
    Memory.lookup (Memory.replace m base len cells) a = Memory.lookup cells a := by
  simp only [Memory.replace, Memory.lookup_append]
  rw [Memory.lookup_filter m _ a false (by intro v; simp; omega),
    Memory.lookup_filter m _ a false (by intro v; simp; omega)]
  simp

theorem Memory.lookup_eq_none (cells : List Host.Cell) {a : Nat} (h : ∀ c ∈ cells, c.1 ≠ a) :
    Memory.lookup cells a = none := by
  induction cells with
  | nil => rfl
  | cons c rest ih =>
    obtain ⟨b, v⟩ := c
    have hb : b ≠ a := h (b, v) List.mem_cons_self
    simp only [Memory.lookup, if_neg hb]
    exact ih fun c hc => h c (List.mem_cons_of_mem _ hc)

theorem Memory.get_replace_outside (m cells : List Host.Cell) {base len a : Nat} (h : a < base ∨ base + len ≤ a)
    (hc : ∀ c ∈ cells, base ≤ c.1 ∧ c.1 < base + len) :
    Memory.get (Memory.replace m base len cells) a = Memory.get m a := by
  have hn : Memory.lookup cells a = none :=
    Memory.lookup_eq_none cells fun c hm heq => by have := hc c hm; omega
  simp only [Memory.get, Memory.replace, Memory.lookup_append, hn]
  rcases h with h | h
  · rw [Memory.lookup_filter m _ a true (by intro v; simp; omega),
      Memory.lookup_filter m _ a false (by intro v; simp; omega)]
    simp
  · rw [Memory.lookup_filter m _ a false (by intro v; simp; omega),
      Memory.lookup_filter m _ a true (by intro v; simp; omega)]
    simp

/-! ## The canonical form -/

theorem Memory.wf_nil : Memory.wf [] := ⟨List.Pairwise.nil, fun _ h => absurd h List.not_mem_nil⟩

theorem Memory.wf_filter {m : List Host.Cell} (p : Host.Cell → Bool) (h : Memory.wf m) : Memory.wf (m.filter p) :=
  ⟨h.1.filter p, fun c hc => h.2 c (List.mem_filter.1 hc).1⟩

theorem Memory.wf_erase {m : List Host.Cell} (a : Nat) (h : Memory.wf m) : Memory.wf (Memory.erase m a) :=
  Memory.wf_filter _ h

theorem Memory.wf_slice {m : List Host.Cell} (base len : Nat) (h : Memory.wf m) :
    Memory.wf (Memory.slice m base len) :=
  Memory.wf_filter _ h

theorem Memory.mem_insert {m : List Host.Cell} {a : Nat} {v : Byte} {c : Host.Cell}
    (h : c ∈ Memory.insert m a v) : c = (a, v) ∨ c ∈ m := by
  induction m with
  | nil => simpa [Memory.insert] using h
  | cons d rest ih =>
    obtain ⟨b, w⟩ := d
    simp only [Memory.insert] at h
    split at h
    · simpa using h
    · split at h
      · rcases List.mem_cons.1 h with h | h
        · exact .inl h
        · exact .inr (List.mem_cons_of_mem _ h)
      · rcases List.mem_cons.1 h with h | h
        · exact .inr (by simp [h])
        · exact (ih h).imp id (List.mem_cons_of_mem _)

theorem Memory.wf_insert {m : List Host.Cell} {a : Nat} {v : Byte} (h : Memory.wf m)
    (hw : Memory.writable a = true) (hu : Memory.unlisted a ≠ some v) : Memory.wf (Memory.insert m a v) := by
  refine ⟨?_, fun c hc => ?_⟩
  · obtain ⟨hp, -⟩ := h
    induction m with
    | nil => simp [Memory.insert]
    | cons d rest ih =>
      obtain ⟨b, w⟩ := d
      obtain ⟨hd, hr⟩ := List.pairwise_cons.1 hp
      simp only [Memory.insert]
      split
      · rename_i hab
        refine List.pairwise_cons.2 ⟨fun c hc => ?_, hp⟩
        rcases List.mem_cons.1 hc with rfl | hc
        · exact hab
        · exact Nat.lt_trans hab (hd c hc)
      · split
        · rename_i hab
          subst hab
          exact List.pairwise_cons.2 ⟨hd, hr⟩
        · refine List.pairwise_cons.2 ⟨fun c hc => ?_, ih hr⟩
          rcases Memory.mem_insert hc with rfl | hc
          · show b < a
            omega
          · exact hd c hc
  · rcases Memory.mem_insert hc with rfl | hc
    · exact ⟨hw, hu⟩
    · exact h.2 c hc

theorem Memory.wf_set {m : List Host.Cell} (a : Nat) (v : Byte) (h : Memory.wf m) : Memory.wf (Memory.set m a v) := by
  simp only [Memory.set]
  split
  · split
    · exact Memory.wf_erase a h
    · exact Memory.wf_insert h ‹_› ‹_›
  · exact h

theorem Memory.wf_setBytes {m : List Host.Cell} (a : Nat) (bytes : List Byte) (h : Memory.wf m) :
    Memory.wf (Memory.setBytes m a bytes) := by
  induction bytes generalizing m a with
  | nil => exact h
  | cons v rest ih => exact ih _ (Memory.wf_set a v h)

/-- Replacing a range keeps the canonical form where the new cells are canonical and lie in the range. -/
theorem Memory.wf_replace {m cells : List Host.Cell} {base len : Nat} (h : Memory.wf m) (hc : Memory.wf cells)
    (hin : ∀ c ∈ cells, base ≤ c.1 ∧ c.1 < base + len) : Memory.wf (Memory.replace m base len cells) := by
  refine ⟨?_, fun c hm => ?_⟩
  · refine List.pairwise_append.2 ⟨List.pairwise_append.2 ⟨h.1.filter _, hc.1, ?_⟩, h.1.filter _, ?_⟩
    · intro a ha b hb
      have h1 : a.1 < base := by simpa using (List.mem_filter.1 ha).2
      have h2 := hin b hb
      omega
    · intro a ha b hb
      have h2 : base + len ≤ b.1 := by simpa using (List.mem_filter.1 hb).2
      rcases List.mem_append.1 ha with ha | ha
      · have h1 : a.1 < base := by simpa using (List.mem_filter.1 ha).2
        omega
      · have h1 := hin a ha
        omega
  · simp only [Memory.replace, List.mem_append, List.mem_filter] at hm
    rcases hm with (hm | hm) | hm
    · exact h.2 c hm.1
    · exact hc.2 c hm
    · exact h.2 c hm.1

end Sys2Proof.Machine
end

