-- ==== Sys2Proof/Laws/State.lean ====
section
/-! SUPPORT. The fields of every state update, one lemma per field and update, true by definition, so that no proof
unfolds a record update. -/

namespace Sys2Proof.Machine

section
variable (s : State)

/-! `State.setBytes` -/

@[simp] theorem State.setBytes_ieDone (a : Nat) (bytes : List Byte) : (s.setBytes a bytes).ieDone = s.ieDone := rfl
@[simp] theorem State.setBytes_ieErr (a : Nat) (bytes : List Byte) : (s.setBytes a bytes).ieErr = s.ieErr := rfl
@[simp] theorem State.setBytes_done (a : Nat) (bytes : List Byte) : (s.setBytes a bytes).done = s.done := rfl
@[simp] theorem State.setBytes_err (a : Nat) (bytes : List Byte) : (s.setBytes a bytes).err = s.err := rfl
@[simp] theorem State.setBytes_coll (a : Nat) (bytes : List Byte) : (s.setBytes a bytes).coll = s.coll := rfl
@[simp] theorem State.setBytes_errCode (a : Nat) (bytes : List Byte) : (s.setBytes a bytes).errCode = s.errCode := rfl
@[simp] theorem State.setBytes_lastOp (a : Nat) (bytes : List Byte) : (s.setBytes a bytes).lastOp = s.lastOp := rfl
@[simp] theorem State.setBytes_cfgVersion (a : Nat) (bytes : List Byte) :
    (s.setBytes a bytes).cfgVersion = s.cfgVersion := rfl
@[simp] theorem State.setBytes_cfgLevel (a : Nat) (bytes : List Byte) :
    (s.setBytes a bytes).cfgLevel = s.cfgLevel := rfl
@[simp] theorem State.setBytes_cfgMaxVer (a : Nat) (bytes : List Byte) :
    (s.setBytes a bytes).cfgMaxVer = s.cfgMaxVer := rfl
@[simp] theorem State.setBytes_arg0 (a : Nat) (bytes : List Byte) : (s.setBytes a bytes).arg0 = s.arg0 := rfl
@[simp] theorem State.setBytes_arg1 (a : Nat) (bytes : List Byte) : (s.setBytes a bytes).arg1 = s.arg1 := rfl
@[simp] theorem State.setBytes_result (a : Nat) (bytes : List Byte) : (s.setBytes a bytes).result = s.result := rfl
@[simp] theorem State.setBytes_bitLen (a : Nat) (bytes : List Byte) : (s.setBytes a bytes).bitLen = s.bitLen := rfl
@[simp] theorem State.setBytes_cwLen (a : Nat) (bytes : List Byte) : (s.setBytes a bytes).cwLen = s.cwLen := rfl
@[simp] theorem State.setBytes_nseg (a : Nat) (bytes : List Byte) : (s.setBytes a bytes).nseg = s.nseg := rfl
@[simp] theorem State.setBytes_resVersion (a : Nat) (bytes : List Byte) :
    (s.setBytes a bytes).resVersion = s.resVersion := rfl
@[simp] theorem State.setBytes_resMode (a : Nat) (bytes : List Byte) : (s.setBytes a bytes).resMode = s.resMode := rfl
@[simp] theorem State.setBytes_resMask (a : Nat) (bytes : List Byte) : (s.setBytes a bytes).resMask = s.resMask := rfl
@[simp] theorem State.setBytes_tplVer (a : Nat) (bytes : List Byte) : (s.setBytes a bytes).tplVer = s.tplVer := rfl
@[simp] theorem State.setBytes_finalVer (a : Nat) (bytes : List Byte) :
    (s.setBytes a bytes).finalVer = s.finalVer := rfl
@[simp] theorem State.setBytes_ecNBlocks (a : Nat) (bytes : List Byte) :
    (s.setBytes a bytes).ecNBlocks = s.ecNBlocks := rfl
@[simp] theorem State.setBytes_ecEcpb (a : Nat) (bytes : List Byte) : (s.setBytes a bytes).ecEcpb = s.ecEcpb := rfl
@[simp] theorem State.setBytes_ecTotal (a : Nat) (bytes : List Byte) : (s.setBytes a bytes).ecTotal = s.ecTotal := rfl
@[simp] theorem State.setBytes_best (a : Nat) (bytes : List Byte) : (s.setBytes a bytes).best = s.best := rfl
@[simp] theorem State.setBytes_pen (a : Nat) (bytes : List Byte) : (s.setBytes a bytes).pen = s.pen := rfl
@[simp] theorem State.setBytes_plen (a : Nat) (bytes : List Byte) : (s.setBytes a bytes).plen = s.plen := rfl
@[simp] theorem State.setBytes_mem (a : Nat) (bytes : List Byte) :
    (s.setBytes a bytes).mem = Memory.setBytes s.mem a bytes := rfl
@[simp] theorem State.setBytes_inFlight (a : Nat) (bytes : List Byte) :
    (s.setBytes a bytes).inFlight = s.inFlight := rfl
@[simp] theorem State.setBytes_hostQueue (a : Nat) (bytes : List Byte) :
    (s.setBytes a bytes).hostQueue = s.hostQueue := rfl
@[simp] theorem State.setBytes_response (a : Nat) (bytes : List Byte) :
    (s.setBytes a bytes).response = s.response := rfl
@[simp] theorem State.setBytes_draws (a : Nat) (bytes : List Byte) : (s.setBytes a bytes).draws = s.draws := rfl
@[simp] theorem State.setBytes_params (a : Nat) (bytes : List Byte) : (s.setBytes a bytes).params = s.params := rfl

/-! `State.storeCw` -/

@[simp] theorem State.storeCw_ieDone (bytes : List Byte) : (s.storeCw bytes).ieDone = s.ieDone := rfl
@[simp] theorem State.storeCw_ieErr (bytes : List Byte) : (s.storeCw bytes).ieErr = s.ieErr := rfl
@[simp] theorem State.storeCw_done (bytes : List Byte) : (s.storeCw bytes).done = s.done := rfl
@[simp] theorem State.storeCw_err (bytes : List Byte) : (s.storeCw bytes).err = s.err := rfl
@[simp] theorem State.storeCw_coll (bytes : List Byte) : (s.storeCw bytes).coll = s.coll := rfl
@[simp] theorem State.storeCw_errCode (bytes : List Byte) : (s.storeCw bytes).errCode = s.errCode := rfl
@[simp] theorem State.storeCw_lastOp (bytes : List Byte) : (s.storeCw bytes).lastOp = s.lastOp := rfl
@[simp] theorem State.storeCw_cfgVersion (bytes : List Byte) : (s.storeCw bytes).cfgVersion = s.cfgVersion := rfl
@[simp] theorem State.storeCw_cfgLevel (bytes : List Byte) : (s.storeCw bytes).cfgLevel = s.cfgLevel := rfl
@[simp] theorem State.storeCw_cfgMaxVer (bytes : List Byte) : (s.storeCw bytes).cfgMaxVer = s.cfgMaxVer := rfl
@[simp] theorem State.storeCw_arg0 (bytes : List Byte) : (s.storeCw bytes).arg0 = s.arg0 := rfl
@[simp] theorem State.storeCw_arg1 (bytes : List Byte) : (s.storeCw bytes).arg1 = s.arg1 := rfl
@[simp] theorem State.storeCw_result (bytes : List Byte) : (s.storeCw bytes).result = s.result := rfl
@[simp] theorem State.storeCw_bitLen (bytes : List Byte) : (s.storeCw bytes).bitLen = s.bitLen := rfl
@[simp] theorem State.storeCw_cwLen (bytes : List Byte) : (s.storeCw bytes).cwLen = s.cwLen := rfl
@[simp] theorem State.storeCw_nseg (bytes : List Byte) : (s.storeCw bytes).nseg = s.nseg := rfl
@[simp] theorem State.storeCw_resVersion (bytes : List Byte) : (s.storeCw bytes).resVersion = s.resVersion := rfl
@[simp] theorem State.storeCw_resMode (bytes : List Byte) : (s.storeCw bytes).resMode = s.resMode := rfl
@[simp] theorem State.storeCw_resMask (bytes : List Byte) : (s.storeCw bytes).resMask = s.resMask := rfl
@[simp] theorem State.storeCw_tplVer (bytes : List Byte) : (s.storeCw bytes).tplVer = s.tplVer := rfl
@[simp] theorem State.storeCw_finalVer (bytes : List Byte) : (s.storeCw bytes).finalVer = s.finalVer := rfl
@[simp] theorem State.storeCw_ecNBlocks (bytes : List Byte) : (s.storeCw bytes).ecNBlocks = s.ecNBlocks := rfl
@[simp] theorem State.storeCw_ecEcpb (bytes : List Byte) : (s.storeCw bytes).ecEcpb = s.ecEcpb := rfl
@[simp] theorem State.storeCw_ecTotal (bytes : List Byte) : (s.storeCw bytes).ecTotal = s.ecTotal := rfl
@[simp] theorem State.storeCw_best (bytes : List Byte) : (s.storeCw bytes).best = s.best := rfl
@[simp] theorem State.storeCw_pen (bytes : List Byte) : (s.storeCw bytes).pen = s.pen := rfl
@[simp] theorem State.storeCw_plen (bytes : List Byte) : (s.storeCw bytes).plen = s.plen := rfl
@[simp] theorem State.storeCw_mem (bytes : List Byte) :
    (s.storeCw bytes).mem = Memory.replace s.mem Window.cw.base Config.cwMax
      ((bytes.take Config.cwMax).zipIdx.map fun (v, i) => (Window.cw.base + i, v)) := rfl
@[simp] theorem State.storeCw_inFlight (bytes : List Byte) : (s.storeCw bytes).inFlight = s.inFlight := rfl
@[simp] theorem State.storeCw_hostQueue (bytes : List Byte) : (s.storeCw bytes).hostQueue = s.hostQueue := rfl
@[simp] theorem State.storeCw_response (bytes : List Byte) : (s.storeCw bytes).response = s.response := rfl
@[simp] theorem State.storeCw_draws (bytes : List Byte) :
    (s.storeCw bytes).draws = { s.draws with cw := s.draws.cw + 1 } := rfl
@[simp] theorem State.storeCw_params (bytes : List Byte) : (s.storeCw bytes).params = s.params := rfl

/-! `State.storeTpl` -/

@[simp] theorem State.storeTpl_ieDone (g : Grid) : (s.storeTpl g).ieDone = s.ieDone := rfl
@[simp] theorem State.storeTpl_ieErr (g : Grid) : (s.storeTpl g).ieErr = s.ieErr := rfl
@[simp] theorem State.storeTpl_done (g : Grid) : (s.storeTpl g).done = s.done := rfl
@[simp] theorem State.storeTpl_err (g : Grid) : (s.storeTpl g).err = s.err := rfl
@[simp] theorem State.storeTpl_coll (g : Grid) : (s.storeTpl g).coll = s.coll := rfl
@[simp] theorem State.storeTpl_errCode (g : Grid) : (s.storeTpl g).errCode = s.errCode := rfl
@[simp] theorem State.storeTpl_lastOp (g : Grid) : (s.storeTpl g).lastOp = s.lastOp := rfl
@[simp] theorem State.storeTpl_cfgVersion (g : Grid) : (s.storeTpl g).cfgVersion = s.cfgVersion := rfl
@[simp] theorem State.storeTpl_cfgLevel (g : Grid) : (s.storeTpl g).cfgLevel = s.cfgLevel := rfl
@[simp] theorem State.storeTpl_cfgMaxVer (g : Grid) : (s.storeTpl g).cfgMaxVer = s.cfgMaxVer := rfl
@[simp] theorem State.storeTpl_arg0 (g : Grid) : (s.storeTpl g).arg0 = s.arg0 := rfl
@[simp] theorem State.storeTpl_arg1 (g : Grid) : (s.storeTpl g).arg1 = s.arg1 := rfl
@[simp] theorem State.storeTpl_result (g : Grid) : (s.storeTpl g).result = s.result := rfl
@[simp] theorem State.storeTpl_bitLen (g : Grid) : (s.storeTpl g).bitLen = s.bitLen := rfl
@[simp] theorem State.storeTpl_cwLen (g : Grid) : (s.storeTpl g).cwLen = s.cwLen := rfl
@[simp] theorem State.storeTpl_nseg (g : Grid) : (s.storeTpl g).nseg = s.nseg := rfl
@[simp] theorem State.storeTpl_resVersion (g : Grid) : (s.storeTpl g).resVersion = s.resVersion := rfl
@[simp] theorem State.storeTpl_resMode (g : Grid) : (s.storeTpl g).resMode = s.resMode := rfl
@[simp] theorem State.storeTpl_resMask (g : Grid) : (s.storeTpl g).resMask = s.resMask := rfl
@[simp] theorem State.storeTpl_tplVer (g : Grid) : (s.storeTpl g).tplVer = s.tplVer := rfl
@[simp] theorem State.storeTpl_finalVer (g : Grid) : (s.storeTpl g).finalVer = s.finalVer := rfl
@[simp] theorem State.storeTpl_ecNBlocks (g : Grid) : (s.storeTpl g).ecNBlocks = s.ecNBlocks := rfl
@[simp] theorem State.storeTpl_ecEcpb (g : Grid) : (s.storeTpl g).ecEcpb = s.ecEcpb := rfl
@[simp] theorem State.storeTpl_ecTotal (g : Grid) : (s.storeTpl g).ecTotal = s.ecTotal := rfl
@[simp] theorem State.storeTpl_best (g : Grid) : (s.storeTpl g).best = s.best := rfl
@[simp] theorem State.storeTpl_pen (g : Grid) : (s.storeTpl g).pen = s.pen := rfl
@[simp] theorem State.storeTpl_plen (g : Grid) : (s.storeTpl g).plen = s.plen := rfl
@[simp] theorem State.storeTpl_mem (g : Grid) : (s.storeTpl g).mem = s.matrixMem .tpl g := rfl
@[simp] theorem State.storeTpl_inFlight (g : Grid) : (s.storeTpl g).inFlight = s.inFlight := rfl
@[simp] theorem State.storeTpl_hostQueue (g : Grid) : (s.storeTpl g).hostQueue = s.hostQueue := rfl
@[simp] theorem State.storeTpl_response (g : Grid) : (s.storeTpl g).response = s.response := rfl
@[simp] theorem State.storeTpl_draws (g : Grid) :
    (s.storeTpl g).draws = { s.draws with tpl := s.draws.tpl + 1 } := rfl
@[simp] theorem State.storeTpl_params (g : Grid) : (s.storeTpl g).params = s.params := rfl

/-! `State.storeFinal` -/

@[simp] theorem State.storeFinal_ieDone (g : Grid) : (s.storeFinal g).ieDone = s.ieDone := rfl
@[simp] theorem State.storeFinal_ieErr (g : Grid) : (s.storeFinal g).ieErr = s.ieErr := rfl
@[simp] theorem State.storeFinal_done (g : Grid) : (s.storeFinal g).done = s.done := rfl
@[simp] theorem State.storeFinal_err (g : Grid) : (s.storeFinal g).err = s.err := rfl
@[simp] theorem State.storeFinal_coll (g : Grid) : (s.storeFinal g).coll = s.coll := rfl
@[simp] theorem State.storeFinal_errCode (g : Grid) : (s.storeFinal g).errCode = s.errCode := rfl
@[simp] theorem State.storeFinal_lastOp (g : Grid) : (s.storeFinal g).lastOp = s.lastOp := rfl
@[simp] theorem State.storeFinal_cfgVersion (g : Grid) : (s.storeFinal g).cfgVersion = s.cfgVersion := rfl
@[simp] theorem State.storeFinal_cfgLevel (g : Grid) : (s.storeFinal g).cfgLevel = s.cfgLevel := rfl
@[simp] theorem State.storeFinal_cfgMaxVer (g : Grid) : (s.storeFinal g).cfgMaxVer = s.cfgMaxVer := rfl
@[simp] theorem State.storeFinal_arg0 (g : Grid) : (s.storeFinal g).arg0 = s.arg0 := rfl
@[simp] theorem State.storeFinal_arg1 (g : Grid) : (s.storeFinal g).arg1 = s.arg1 := rfl
@[simp] theorem State.storeFinal_result (g : Grid) : (s.storeFinal g).result = s.result := rfl
@[simp] theorem State.storeFinal_bitLen (g : Grid) : (s.storeFinal g).bitLen = s.bitLen := rfl
@[simp] theorem State.storeFinal_cwLen (g : Grid) : (s.storeFinal g).cwLen = s.cwLen := rfl
@[simp] theorem State.storeFinal_nseg (g : Grid) : (s.storeFinal g).nseg = s.nseg := rfl
@[simp] theorem State.storeFinal_resVersion (g : Grid) : (s.storeFinal g).resVersion = s.resVersion := rfl
@[simp] theorem State.storeFinal_resMode (g : Grid) : (s.storeFinal g).resMode = s.resMode := rfl
@[simp] theorem State.storeFinal_resMask (g : Grid) : (s.storeFinal g).resMask = s.resMask := rfl
@[simp] theorem State.storeFinal_tplVer (g : Grid) : (s.storeFinal g).tplVer = s.tplVer := rfl
@[simp] theorem State.storeFinal_finalVer (g : Grid) : (s.storeFinal g).finalVer = s.finalVer := rfl
@[simp] theorem State.storeFinal_ecNBlocks (g : Grid) : (s.storeFinal g).ecNBlocks = s.ecNBlocks := rfl
@[simp] theorem State.storeFinal_ecEcpb (g : Grid) : (s.storeFinal g).ecEcpb = s.ecEcpb := rfl
@[simp] theorem State.storeFinal_ecTotal (g : Grid) : (s.storeFinal g).ecTotal = s.ecTotal := rfl
@[simp] theorem State.storeFinal_best (g : Grid) : (s.storeFinal g).best = s.best := rfl
@[simp] theorem State.storeFinal_pen (g : Grid) : (s.storeFinal g).pen = s.pen := rfl
@[simp] theorem State.storeFinal_plen (g : Grid) : (s.storeFinal g).plen = s.plen := rfl
@[simp] theorem State.storeFinal_mem (g : Grid) : (s.storeFinal g).mem = s.matrixMem .final g := rfl
@[simp] theorem State.storeFinal_inFlight (g : Grid) : (s.storeFinal g).inFlight = s.inFlight := rfl
@[simp] theorem State.storeFinal_hostQueue (g : Grid) : (s.storeFinal g).hostQueue = s.hostQueue := rfl
@[simp] theorem State.storeFinal_response (g : Grid) : (s.storeFinal g).response = s.response := rfl
@[simp] theorem State.storeFinal_draws (g : Grid) :
    (s.storeFinal g).draws = { s.draws with final := s.draws.final + 1 } := rfl
@[simp] theorem State.storeFinal_params (g : Grid) : (s.storeFinal g).params = s.params := rfl

/-! `State.storeTrial` -/

@[simp] theorem State.storeTrial_ieDone (m : Nat) (g : Grid) : (s.storeTrial m g).ieDone = s.ieDone := rfl
@[simp] theorem State.storeTrial_ieErr (m : Nat) (g : Grid) : (s.storeTrial m g).ieErr = s.ieErr := rfl
@[simp] theorem State.storeTrial_done (m : Nat) (g : Grid) : (s.storeTrial m g).done = s.done := rfl
@[simp] theorem State.storeTrial_err (m : Nat) (g : Grid) : (s.storeTrial m g).err = s.err := rfl
@[simp] theorem State.storeTrial_coll (m : Nat) (g : Grid) : (s.storeTrial m g).coll = s.coll := rfl
@[simp] theorem State.storeTrial_errCode (m : Nat) (g : Grid) : (s.storeTrial m g).errCode = s.errCode := rfl
@[simp] theorem State.storeTrial_lastOp (m : Nat) (g : Grid) : (s.storeTrial m g).lastOp = s.lastOp := rfl
@[simp] theorem State.storeTrial_cfgVersion (m : Nat) (g : Grid) : (s.storeTrial m g).cfgVersion = s.cfgVersion := rfl
@[simp] theorem State.storeTrial_cfgLevel (m : Nat) (g : Grid) : (s.storeTrial m g).cfgLevel = s.cfgLevel := rfl
@[simp] theorem State.storeTrial_cfgMaxVer (m : Nat) (g : Grid) : (s.storeTrial m g).cfgMaxVer = s.cfgMaxVer := rfl
@[simp] theorem State.storeTrial_arg0 (m : Nat) (g : Grid) : (s.storeTrial m g).arg0 = s.arg0 := rfl
@[simp] theorem State.storeTrial_arg1 (m : Nat) (g : Grid) : (s.storeTrial m g).arg1 = s.arg1 := rfl
@[simp] theorem State.storeTrial_result (m : Nat) (g : Grid) : (s.storeTrial m g).result = s.result := rfl
@[simp] theorem State.storeTrial_bitLen (m : Nat) (g : Grid) : (s.storeTrial m g).bitLen = s.bitLen := rfl
@[simp] theorem State.storeTrial_cwLen (m : Nat) (g : Grid) : (s.storeTrial m g).cwLen = s.cwLen := rfl
@[simp] theorem State.storeTrial_nseg (m : Nat) (g : Grid) : (s.storeTrial m g).nseg = s.nseg := rfl
@[simp] theorem State.storeTrial_resVersion (m : Nat) (g : Grid) : (s.storeTrial m g).resVersion = s.resVersion := rfl
@[simp] theorem State.storeTrial_resMode (m : Nat) (g : Grid) : (s.storeTrial m g).resMode = s.resMode := rfl
@[simp] theorem State.storeTrial_resMask (m : Nat) (g : Grid) : (s.storeTrial m g).resMask = s.resMask := rfl
@[simp] theorem State.storeTrial_tplVer (m : Nat) (g : Grid) : (s.storeTrial m g).tplVer = s.tplVer := rfl
@[simp] theorem State.storeTrial_finalVer (m : Nat) (g : Grid) : (s.storeTrial m g).finalVer = s.finalVer := rfl
@[simp] theorem State.storeTrial_ecNBlocks (m : Nat) (g : Grid) : (s.storeTrial m g).ecNBlocks = s.ecNBlocks := rfl
@[simp] theorem State.storeTrial_ecEcpb (m : Nat) (g : Grid) : (s.storeTrial m g).ecEcpb = s.ecEcpb := rfl
@[simp] theorem State.storeTrial_ecTotal (m : Nat) (g : Grid) : (s.storeTrial m g).ecTotal = s.ecTotal := rfl
@[simp] theorem State.storeTrial_best (m : Nat) (g : Grid) : (s.storeTrial m g).best = s.best := rfl
@[simp] theorem State.storeTrial_pen (m : Nat) (g : Grid) : (s.storeTrial m g).pen = s.pen := rfl
@[simp] theorem State.storeTrial_plen (m : Nat) (g : Grid) : (s.storeTrial m g).plen = s.plen := rfl
@[simp] theorem State.storeTrial_mem (m : Nat) (g : Grid) : (s.storeTrial m g).mem = s.matrixMem (.trial m) g := rfl
@[simp] theorem State.storeTrial_inFlight (m : Nat) (g : Grid) : (s.storeTrial m g).inFlight = s.inFlight := rfl
@[simp] theorem State.storeTrial_hostQueue (m : Nat) (g : Grid) : (s.storeTrial m g).hostQueue = s.hostQueue := rfl
@[simp] theorem State.storeTrial_response (m : Nat) (g : Grid) : (s.storeTrial m g).response = s.response := rfl
@[simp] theorem State.storeTrial_draws (m : Nat) (g : Grid) :
    (s.storeTrial m g).draws = { s.draws with
      trial := s.draws.trial.setIfInBounds m (s.draws.trial.toList.getD m 0 + 1) } := rfl
@[simp] theorem State.storeTrial_params (m : Nat) (g : Grid) : (s.storeTrial m g).params = s.params := rfl

/-! `State.acceptWith` -/

@[simp] theorem State.acceptWith_ieDone (w : Word) (left : Nat) : (s.acceptWith w left).ieDone = s.ieDone := rfl
@[simp] theorem State.acceptWith_ieErr (w : Word) (left : Nat) : (s.acceptWith w left).ieErr = s.ieErr := rfl
@[simp] theorem State.acceptWith_done (w : Word) (left : Nat) : (s.acceptWith w left).done = false := rfl
@[simp] theorem State.acceptWith_err (w : Word) (left : Nat) : (s.acceptWith w left).err = false := rfl
@[simp] theorem State.acceptWith_coll (w : Word) (left : Nat) : (s.acceptWith w left).coll = s.coll := rfl
@[simp] theorem State.acceptWith_errCode (w : Word) (left : Nat) : (s.acceptWith w left).errCode = 0 := rfl
@[simp] theorem State.acceptWith_lastOp (w : Word) (left : Nat) :
    (s.acceptWith w left).lastOp = w.extractLsb' 0 8 := rfl
@[simp] theorem State.acceptWith_cfgVersion (w : Word) (left : Nat) :
    (s.acceptWith w left).cfgVersion = s.cfgVersion := rfl
@[simp] theorem State.acceptWith_cfgLevel (w : Word) (left : Nat) : (s.acceptWith w left).cfgLevel = s.cfgLevel := rfl
@[simp] theorem State.acceptWith_cfgMaxVer (w : Word) (left : Nat) :
    (s.acceptWith w left).cfgMaxVer = s.cfgMaxVer := rfl
@[simp] theorem State.acceptWith_arg0 (w : Word) (left : Nat) : (s.acceptWith w left).arg0 = s.arg0 := rfl
@[simp] theorem State.acceptWith_arg1 (w : Word) (left : Nat) : (s.acceptWith w left).arg1 = s.arg1 := rfl
@[simp] theorem State.acceptWith_result (w : Word) (left : Nat) : (s.acceptWith w left).result = s.result := rfl
@[simp] theorem State.acceptWith_bitLen (w : Word) (left : Nat) : (s.acceptWith w left).bitLen = s.bitLen := rfl
@[simp] theorem State.acceptWith_cwLen (w : Word) (left : Nat) : (s.acceptWith w left).cwLen = s.cwLen := rfl
@[simp] theorem State.acceptWith_nseg (w : Word) (left : Nat) : (s.acceptWith w left).nseg = s.nseg := rfl
@[simp] theorem State.acceptWith_resVersion (w : Word) (left : Nat) :
    (s.acceptWith w left).resVersion = s.resVersion := rfl
@[simp] theorem State.acceptWith_resMode (w : Word) (left : Nat) : (s.acceptWith w left).resMode = s.resMode := rfl
@[simp] theorem State.acceptWith_resMask (w : Word) (left : Nat) : (s.acceptWith w left).resMask = s.resMask := rfl
@[simp] theorem State.acceptWith_tplVer (w : Word) (left : Nat) : (s.acceptWith w left).tplVer = s.tplVer := rfl
@[simp] theorem State.acceptWith_finalVer (w : Word) (left : Nat) : (s.acceptWith w left).finalVer = s.finalVer := rfl
@[simp] theorem State.acceptWith_ecNBlocks (w : Word) (left : Nat) :
    (s.acceptWith w left).ecNBlocks = s.ecNBlocks := rfl
@[simp] theorem State.acceptWith_ecEcpb (w : Word) (left : Nat) : (s.acceptWith w left).ecEcpb = s.ecEcpb := rfl
@[simp] theorem State.acceptWith_ecTotal (w : Word) (left : Nat) : (s.acceptWith w left).ecTotal = s.ecTotal := rfl
@[simp] theorem State.acceptWith_best (w : Word) (left : Nat) : (s.acceptWith w left).best = s.best := rfl
@[simp] theorem State.acceptWith_pen (w : Word) (left : Nat) : (s.acceptWith w left).pen = s.pen := rfl
@[simp] theorem State.acceptWith_plen (w : Word) (left : Nat) : (s.acceptWith w left).plen = s.plen := rfl
@[simp] theorem State.acceptWith_mem (w : Word) (left : Nat) : (s.acceptWith w left).mem = s.mem := rfl
@[simp] theorem State.acceptWith_inFlight (w : Word) (left : Nat) :
    (s.acceptWith w left).inFlight = some { word := w, left := left } := rfl
@[simp] theorem State.acceptWith_hostQueue (w : Word) (left : Nat) :
    (s.acceptWith w left).hostQueue = s.hostQueue := rfl
@[simp] theorem State.acceptWith_response (w : Word) (left : Nat) : (s.acceptWith w left).response = s.response := rfl
@[simp] theorem State.acceptWith_draws (w : Word) (left : Nat) : (s.acceptWith w left).draws = s.draws := rfl
@[simp] theorem State.acceptWith_params (w : Word) (left : Nat) : (s.acceptWith w left).params = s.params := rfl

/-! `State.raise` -/

@[simp] theorem State.raise_ieDone (e : ErrCode) : (s.raise e).ieDone = s.ieDone := rfl
@[simp] theorem State.raise_ieErr (e : ErrCode) : (s.raise e).ieErr = s.ieErr := rfl
@[simp] theorem State.raise_done (e : ErrCode) : (s.raise e).done = true := rfl
@[simp] theorem State.raise_err (e : ErrCode) : (s.raise e).err = true := rfl
@[simp] theorem State.raise_coll (e : ErrCode) : (s.raise e).coll = s.coll := rfl
@[simp] theorem State.raise_errCode (e : ErrCode) : (s.raise e).errCode = e.code := rfl
@[simp] theorem State.raise_lastOp (e : ErrCode) : (s.raise e).lastOp = s.lastOp := rfl
@[simp] theorem State.raise_cfgVersion (e : ErrCode) : (s.raise e).cfgVersion = s.cfgVersion := rfl
@[simp] theorem State.raise_cfgLevel (e : ErrCode) : (s.raise e).cfgLevel = s.cfgLevel := rfl
@[simp] theorem State.raise_cfgMaxVer (e : ErrCode) : (s.raise e).cfgMaxVer = s.cfgMaxVer := rfl
@[simp] theorem State.raise_arg0 (e : ErrCode) : (s.raise e).arg0 = s.arg0 := rfl
@[simp] theorem State.raise_arg1 (e : ErrCode) : (s.raise e).arg1 = s.arg1 := rfl
@[simp] theorem State.raise_result (e : ErrCode) : (s.raise e).result = s.result := rfl
@[simp] theorem State.raise_bitLen (e : ErrCode) : (s.raise e).bitLen = s.bitLen := rfl
@[simp] theorem State.raise_cwLen (e : ErrCode) : (s.raise e).cwLen = s.cwLen := rfl
@[simp] theorem State.raise_nseg (e : ErrCode) : (s.raise e).nseg = s.nseg := rfl
@[simp] theorem State.raise_resVersion (e : ErrCode) : (s.raise e).resVersion = s.resVersion := rfl
@[simp] theorem State.raise_resMode (e : ErrCode) : (s.raise e).resMode = s.resMode := rfl
@[simp] theorem State.raise_resMask (e : ErrCode) : (s.raise e).resMask = s.resMask := rfl
@[simp] theorem State.raise_tplVer (e : ErrCode) : (s.raise e).tplVer = s.tplVer := rfl
@[simp] theorem State.raise_finalVer (e : ErrCode) : (s.raise e).finalVer = s.finalVer := rfl
@[simp] theorem State.raise_ecNBlocks (e : ErrCode) : (s.raise e).ecNBlocks = s.ecNBlocks := rfl
@[simp] theorem State.raise_ecEcpb (e : ErrCode) : (s.raise e).ecEcpb = s.ecEcpb := rfl
@[simp] theorem State.raise_ecTotal (e : ErrCode) : (s.raise e).ecTotal = s.ecTotal := rfl
@[simp] theorem State.raise_best (e : ErrCode) : (s.raise e).best = s.best := rfl
@[simp] theorem State.raise_pen (e : ErrCode) : (s.raise e).pen = s.pen := rfl
@[simp] theorem State.raise_plen (e : ErrCode) : (s.raise e).plen = s.plen := rfl
@[simp] theorem State.raise_mem (e : ErrCode) : (s.raise e).mem = s.mem := rfl
@[simp] theorem State.raise_inFlight (e : ErrCode) : (s.raise e).inFlight = none := rfl
@[simp] theorem State.raise_hostQueue (e : ErrCode) : (s.raise e).hostQueue = s.hostQueue := rfl
@[simp] theorem State.raise_response (e : ErrCode) : (s.raise e).response = s.response := rfl
@[simp] theorem State.raise_draws (e : ErrCode) : (s.raise e).draws = s.draws := rfl
@[simp] theorem State.raise_params (e : ErrCode) : (s.raise e).params = s.params := rfl

/-! `State.succeed` -/

@[simp] theorem State.succeed_ieDone : (s.succeed).ieDone = s.ieDone := rfl
@[simp] theorem State.succeed_ieErr : (s.succeed).ieErr = s.ieErr := rfl
@[simp] theorem State.succeed_done : (s.succeed).done = true := rfl
@[simp] theorem State.succeed_err : (s.succeed).err = s.err := rfl
@[simp] theorem State.succeed_coll : (s.succeed).coll = s.coll := rfl
@[simp] theorem State.succeed_errCode : (s.succeed).errCode = s.errCode := rfl
@[simp] theorem State.succeed_lastOp : (s.succeed).lastOp = s.lastOp := rfl
@[simp] theorem State.succeed_cfgVersion : (s.succeed).cfgVersion = s.cfgVersion := rfl
@[simp] theorem State.succeed_cfgLevel : (s.succeed).cfgLevel = s.cfgLevel := rfl
@[simp] theorem State.succeed_cfgMaxVer : (s.succeed).cfgMaxVer = s.cfgMaxVer := rfl
@[simp] theorem State.succeed_arg0 : (s.succeed).arg0 = s.arg0 := rfl
@[simp] theorem State.succeed_arg1 : (s.succeed).arg1 = s.arg1 := rfl
@[simp] theorem State.succeed_result : (s.succeed).result = s.result := rfl
@[simp] theorem State.succeed_bitLen : (s.succeed).bitLen = s.bitLen := rfl
@[simp] theorem State.succeed_cwLen : (s.succeed).cwLen = s.cwLen := rfl
@[simp] theorem State.succeed_nseg : (s.succeed).nseg = s.nseg := rfl
@[simp] theorem State.succeed_resVersion : (s.succeed).resVersion = s.resVersion := rfl
@[simp] theorem State.succeed_resMode : (s.succeed).resMode = s.resMode := rfl
@[simp] theorem State.succeed_resMask : (s.succeed).resMask = s.resMask := rfl
@[simp] theorem State.succeed_tplVer : (s.succeed).tplVer = s.tplVer := rfl
@[simp] theorem State.succeed_finalVer : (s.succeed).finalVer = s.finalVer := rfl
@[simp] theorem State.succeed_ecNBlocks : (s.succeed).ecNBlocks = s.ecNBlocks := rfl
@[simp] theorem State.succeed_ecEcpb : (s.succeed).ecEcpb = s.ecEcpb := rfl
@[simp] theorem State.succeed_ecTotal : (s.succeed).ecTotal = s.ecTotal := rfl
@[simp] theorem State.succeed_best : (s.succeed).best = s.best := rfl
@[simp] theorem State.succeed_pen : (s.succeed).pen = s.pen := rfl
@[simp] theorem State.succeed_plen : (s.succeed).plen = s.plen := rfl
@[simp] theorem State.succeed_mem : (s.succeed).mem = s.mem := rfl
@[simp] theorem State.succeed_inFlight : (s.succeed).inFlight = none := rfl
@[simp] theorem State.succeed_hostQueue : (s.succeed).hostQueue = s.hostQueue := rfl
@[simp] theorem State.succeed_response : (s.succeed).response = s.response := rfl
@[simp] theorem State.succeed_draws : (s.succeed).draws = s.draws := rfl
@[simp] theorem State.succeed_params : (s.succeed).params = s.params := rfl

/-! `State.ackStatus` -/

@[simp] theorem State.ackStatus_ieDone (d e c : Bool) : (s.ackStatus d e c).ieDone = s.ieDone := rfl
@[simp] theorem State.ackStatus_ieErr (d e c : Bool) : (s.ackStatus d e c).ieErr = s.ieErr := rfl
@[simp] theorem State.ackStatus_done (d e c : Bool) : (s.ackStatus d e c).done = (s.done && !d) := rfl
@[simp] theorem State.ackStatus_err (d e c : Bool) : (s.ackStatus d e c).err = (s.err && !e) := rfl
@[simp] theorem State.ackStatus_coll (d e c : Bool) : (s.ackStatus d e c).coll = (s.coll && !c) := rfl
@[simp] theorem State.ackStatus_errCode (d e c : Bool) :
    (s.ackStatus d e c).errCode = if e then 0 else s.errCode := rfl
@[simp] theorem State.ackStatus_lastOp (d e c : Bool) : (s.ackStatus d e c).lastOp = s.lastOp := rfl
@[simp] theorem State.ackStatus_cfgVersion (d e c : Bool) : (s.ackStatus d e c).cfgVersion = s.cfgVersion := rfl
@[simp] theorem State.ackStatus_cfgLevel (d e c : Bool) : (s.ackStatus d e c).cfgLevel = s.cfgLevel := rfl
@[simp] theorem State.ackStatus_cfgMaxVer (d e c : Bool) : (s.ackStatus d e c).cfgMaxVer = s.cfgMaxVer := rfl
@[simp] theorem State.ackStatus_arg0 (d e c : Bool) : (s.ackStatus d e c).arg0 = s.arg0 := rfl
@[simp] theorem State.ackStatus_arg1 (d e c : Bool) : (s.ackStatus d e c).arg1 = s.arg1 := rfl
@[simp] theorem State.ackStatus_result (d e c : Bool) : (s.ackStatus d e c).result = s.result := rfl
@[simp] theorem State.ackStatus_bitLen (d e c : Bool) : (s.ackStatus d e c).bitLen = s.bitLen := rfl
@[simp] theorem State.ackStatus_cwLen (d e c : Bool) : (s.ackStatus d e c).cwLen = s.cwLen := rfl
@[simp] theorem State.ackStatus_nseg (d e c : Bool) : (s.ackStatus d e c).nseg = s.nseg := rfl
@[simp] theorem State.ackStatus_resVersion (d e c : Bool) : (s.ackStatus d e c).resVersion = s.resVersion := rfl
@[simp] theorem State.ackStatus_resMode (d e c : Bool) : (s.ackStatus d e c).resMode = s.resMode := rfl
@[simp] theorem State.ackStatus_resMask (d e c : Bool) : (s.ackStatus d e c).resMask = s.resMask := rfl
@[simp] theorem State.ackStatus_tplVer (d e c : Bool) : (s.ackStatus d e c).tplVer = s.tplVer := rfl
@[simp] theorem State.ackStatus_finalVer (d e c : Bool) : (s.ackStatus d e c).finalVer = s.finalVer := rfl
@[simp] theorem State.ackStatus_ecNBlocks (d e c : Bool) : (s.ackStatus d e c).ecNBlocks = s.ecNBlocks := rfl
@[simp] theorem State.ackStatus_ecEcpb (d e c : Bool) : (s.ackStatus d e c).ecEcpb = s.ecEcpb := rfl
@[simp] theorem State.ackStatus_ecTotal (d e c : Bool) : (s.ackStatus d e c).ecTotal = s.ecTotal := rfl
@[simp] theorem State.ackStatus_best (d e c : Bool) : (s.ackStatus d e c).best = s.best := rfl
@[simp] theorem State.ackStatus_pen (d e c : Bool) : (s.ackStatus d e c).pen = s.pen := rfl
@[simp] theorem State.ackStatus_plen (d e c : Bool) : (s.ackStatus d e c).plen = s.plen := rfl
@[simp] theorem State.ackStatus_mem (d e c : Bool) : (s.ackStatus d e c).mem = s.mem := rfl
@[simp] theorem State.ackStatus_inFlight (d e c : Bool) : (s.ackStatus d e c).inFlight = s.inFlight := rfl
@[simp] theorem State.ackStatus_hostQueue (d e c : Bool) : (s.ackStatus d e c).hostQueue = s.hostQueue := rfl
@[simp] theorem State.ackStatus_response (d e c : Bool) : (s.ackStatus d e c).response = s.response := rfl
@[simp] theorem State.ackStatus_draws (d e c : Bool) : (s.ackStatus d e c).draws = s.draws := rfl
@[simp] theorem State.ackStatus_params (d e c : Bool) : (s.ackStatus d e c).params = s.params := rfl

/-! `State.putBit` -/

@[simp] theorem State.putBit_ieDone (b : Bool) : (s.putBit b).ieDone = s.ieDone := rfl
@[simp] theorem State.putBit_ieErr (b : Bool) : (s.putBit b).ieErr = s.ieErr := rfl
@[simp] theorem State.putBit_done (b : Bool) : (s.putBit b).done = s.done := rfl
@[simp] theorem State.putBit_err (b : Bool) : (s.putBit b).err = s.err := rfl
@[simp] theorem State.putBit_coll (b : Bool) : (s.putBit b).coll = s.coll := rfl
@[simp] theorem State.putBit_errCode (b : Bool) : (s.putBit b).errCode = s.errCode := rfl
@[simp] theorem State.putBit_lastOp (b : Bool) : (s.putBit b).lastOp = s.lastOp := rfl
@[simp] theorem State.putBit_cfgVersion (b : Bool) : (s.putBit b).cfgVersion = s.cfgVersion := rfl
@[simp] theorem State.putBit_cfgLevel (b : Bool) : (s.putBit b).cfgLevel = s.cfgLevel := rfl
@[simp] theorem State.putBit_cfgMaxVer (b : Bool) : (s.putBit b).cfgMaxVer = s.cfgMaxVer := rfl
@[simp] theorem State.putBit_arg0 (b : Bool) : (s.putBit b).arg0 = s.arg0 := rfl
@[simp] theorem State.putBit_arg1 (b : Bool) : (s.putBit b).arg1 = s.arg1 := rfl
@[simp] theorem State.putBit_result (b : Bool) : (s.putBit b).result = s.result := rfl
@[simp] theorem State.putBit_bitLen (b : Bool) : (s.putBit b).bitLen = s.bitLen + 1 := rfl
@[simp] theorem State.putBit_cwLen (b : Bool) : (s.putBit b).cwLen = s.cwLen := rfl
@[simp] theorem State.putBit_nseg (b : Bool) : (s.putBit b).nseg = s.nseg := rfl
@[simp] theorem State.putBit_resVersion (b : Bool) : (s.putBit b).resVersion = s.resVersion := rfl
@[simp] theorem State.putBit_resMode (b : Bool) : (s.putBit b).resMode = s.resMode := rfl
@[simp] theorem State.putBit_resMask (b : Bool) : (s.putBit b).resMask = s.resMask := rfl
@[simp] theorem State.putBit_tplVer (b : Bool) : (s.putBit b).tplVer = s.tplVer := rfl
@[simp] theorem State.putBit_finalVer (b : Bool) : (s.putBit b).finalVer = s.finalVer := rfl
@[simp] theorem State.putBit_ecNBlocks (b : Bool) : (s.putBit b).ecNBlocks = s.ecNBlocks := rfl
@[simp] theorem State.putBit_ecEcpb (b : Bool) : (s.putBit b).ecEcpb = s.ecEcpb := rfl
@[simp] theorem State.putBit_ecTotal (b : Bool) : (s.putBit b).ecTotal = s.ecTotal := rfl
@[simp] theorem State.putBit_best (b : Bool) : (s.putBit b).best = s.best := rfl
@[simp] theorem State.putBit_pen (b : Bool) : (s.putBit b).pen = s.pen := rfl
@[simp] theorem State.putBit_plen (b : Bool) : (s.putBit b).plen = s.plen := rfl
@[simp] theorem State.putBit_mem (b : Bool) :
    (s.putBit b).mem = Memory.set s.mem (Window.bb.base + s.bitLen.toNat / 8)
      (setByteBit (s.byteAt (Window.bb.base + s.bitLen.toNat / 8)) (7 - s.bitLen.toNat % 8) b) := rfl
@[simp] theorem State.putBit_inFlight (b : Bool) : (s.putBit b).inFlight = s.inFlight := rfl
@[simp] theorem State.putBit_hostQueue (b : Bool) : (s.putBit b).hostQueue = s.hostQueue := rfl
@[simp] theorem State.putBit_response (b : Bool) : (s.putBit b).response = s.response := rfl
@[simp] theorem State.putBit_draws (b : Bool) : (s.putBit b).draws = s.draws := rfl
@[simp] theorem State.putBit_params (b : Bool) : (s.putBit b).params = s.params := rfl

/-! `State.collide` -/

@[simp] theorem State.collide_ieDone : (s.collide).ieDone = s.ieDone := rfl
@[simp] theorem State.collide_ieErr : (s.collide).ieErr = s.ieErr := rfl
@[simp] theorem State.collide_done : (s.collide).done = s.done := rfl
@[simp] theorem State.collide_err : (s.collide).err = s.err := rfl
@[simp] theorem State.collide_coll : (s.collide).coll = true := rfl
@[simp] theorem State.collide_errCode : (s.collide).errCode = s.errCode := rfl
@[simp] theorem State.collide_lastOp : (s.collide).lastOp = s.lastOp := rfl
@[simp] theorem State.collide_cfgVersion : (s.collide).cfgVersion = s.cfgVersion := rfl
@[simp] theorem State.collide_cfgLevel : (s.collide).cfgLevel = s.cfgLevel := rfl
@[simp] theorem State.collide_cfgMaxVer : (s.collide).cfgMaxVer = s.cfgMaxVer := rfl
@[simp] theorem State.collide_arg0 : (s.collide).arg0 = s.arg0 := rfl
@[simp] theorem State.collide_arg1 : (s.collide).arg1 = s.arg1 := rfl
@[simp] theorem State.collide_result : (s.collide).result = s.result := rfl
@[simp] theorem State.collide_bitLen : (s.collide).bitLen = s.bitLen := rfl
@[simp] theorem State.collide_cwLen : (s.collide).cwLen = s.cwLen := rfl
@[simp] theorem State.collide_nseg : (s.collide).nseg = s.nseg := rfl
@[simp] theorem State.collide_resVersion : (s.collide).resVersion = s.resVersion := rfl
@[simp] theorem State.collide_resMode : (s.collide).resMode = s.resMode := rfl
@[simp] theorem State.collide_resMask : (s.collide).resMask = s.resMask := rfl
@[simp] theorem State.collide_tplVer : (s.collide).tplVer = s.tplVer := rfl
@[simp] theorem State.collide_finalVer : (s.collide).finalVer = s.finalVer := rfl
@[simp] theorem State.collide_ecNBlocks : (s.collide).ecNBlocks = s.ecNBlocks := rfl
@[simp] theorem State.collide_ecEcpb : (s.collide).ecEcpb = s.ecEcpb := rfl
@[simp] theorem State.collide_ecTotal : (s.collide).ecTotal = s.ecTotal := rfl
@[simp] theorem State.collide_best : (s.collide).best = s.best := rfl
@[simp] theorem State.collide_pen : (s.collide).pen = s.pen := rfl
@[simp] theorem State.collide_plen : (s.collide).plen = s.plen := rfl
@[simp] theorem State.collide_mem : (s.collide).mem = s.mem := rfl
@[simp] theorem State.collide_inFlight : (s.collide).inFlight = s.inFlight := rfl
@[simp] theorem State.collide_hostQueue : (s.collide).hostQueue = s.hostQueue := rfl
@[simp] theorem State.collide_response : (s.collide).response = s.response := rfl
@[simp] theorem State.collide_draws : (s.collide).draws = s.draws := rfl
@[simp] theorem State.collide_params : (s.collide).params = s.params := rfl

/-! `State.tick` -/

@[simp] theorem State.tick_ieDone (f : InFlight) : (s.tick f).ieDone = s.ieDone := rfl
@[simp] theorem State.tick_ieErr (f : InFlight) : (s.tick f).ieErr = s.ieErr := rfl
@[simp] theorem State.tick_done (f : InFlight) : (s.tick f).done = s.done := rfl
@[simp] theorem State.tick_err (f : InFlight) : (s.tick f).err = s.err := rfl
@[simp] theorem State.tick_coll (f : InFlight) : (s.tick f).coll = s.coll := rfl
@[simp] theorem State.tick_errCode (f : InFlight) : (s.tick f).errCode = s.errCode := rfl
@[simp] theorem State.tick_lastOp (f : InFlight) : (s.tick f).lastOp = s.lastOp := rfl
@[simp] theorem State.tick_cfgVersion (f : InFlight) : (s.tick f).cfgVersion = s.cfgVersion := rfl
@[simp] theorem State.tick_cfgLevel (f : InFlight) : (s.tick f).cfgLevel = s.cfgLevel := rfl
@[simp] theorem State.tick_cfgMaxVer (f : InFlight) : (s.tick f).cfgMaxVer = s.cfgMaxVer := rfl
@[simp] theorem State.tick_arg0 (f : InFlight) : (s.tick f).arg0 = s.arg0 := rfl
@[simp] theorem State.tick_arg1 (f : InFlight) : (s.tick f).arg1 = s.arg1 := rfl
@[simp] theorem State.tick_result (f : InFlight) : (s.tick f).result = s.result := rfl
@[simp] theorem State.tick_bitLen (f : InFlight) : (s.tick f).bitLen = s.bitLen := rfl
@[simp] theorem State.tick_cwLen (f : InFlight) : (s.tick f).cwLen = s.cwLen := rfl
@[simp] theorem State.tick_nseg (f : InFlight) : (s.tick f).nseg = s.nseg := rfl
@[simp] theorem State.tick_resVersion (f : InFlight) : (s.tick f).resVersion = s.resVersion := rfl
@[simp] theorem State.tick_resMode (f : InFlight) : (s.tick f).resMode = s.resMode := rfl
@[simp] theorem State.tick_resMask (f : InFlight) : (s.tick f).resMask = s.resMask := rfl
@[simp] theorem State.tick_tplVer (f : InFlight) : (s.tick f).tplVer = s.tplVer := rfl
@[simp] theorem State.tick_finalVer (f : InFlight) : (s.tick f).finalVer = s.finalVer := rfl
@[simp] theorem State.tick_ecNBlocks (f : InFlight) : (s.tick f).ecNBlocks = s.ecNBlocks := rfl
@[simp] theorem State.tick_ecEcpb (f : InFlight) : (s.tick f).ecEcpb = s.ecEcpb := rfl
@[simp] theorem State.tick_ecTotal (f : InFlight) : (s.tick f).ecTotal = s.ecTotal := rfl
@[simp] theorem State.tick_best (f : InFlight) : (s.tick f).best = s.best := rfl
@[simp] theorem State.tick_pen (f : InFlight) : (s.tick f).pen = s.pen := rfl
@[simp] theorem State.tick_plen (f : InFlight) : (s.tick f).plen = s.plen := rfl
@[simp] theorem State.tick_mem (f : InFlight) : (s.tick f).mem = s.mem := rfl
@[simp] theorem State.tick_inFlight (f : InFlight) : (s.tick f).inFlight = some { f with left := f.left - 1 } := rfl
@[simp] theorem State.tick_hostQueue (f : InFlight) : (s.tick f).hostQueue = s.hostQueue := rfl
@[simp] theorem State.tick_response (f : InFlight) : (s.tick f).response = s.response := rfl
@[simp] theorem State.tick_draws (f : InFlight) : (s.tick f).draws = s.draws := rfl
@[simp] theorem State.tick_params (f : InFlight) : (s.tick f).params = s.params := rfl

/-! `writePoly` and `writeEcInfo` -/

@[simp] theorem writePoly_ieDone (d : PReg) (r : List Byte) :
    (writePoly s d r).ieDone = s.ieDone := rfl
@[simp] theorem writePoly_ieErr (d : PReg) (r : List Byte) :
    (writePoly s d r).ieErr = s.ieErr := rfl
@[simp] theorem writePoly_done (d : PReg) (r : List Byte) :
    (writePoly s d r).done = s.done := rfl
@[simp] theorem writePoly_err (d : PReg) (r : List Byte) :
    (writePoly s d r).err = s.err := rfl
@[simp] theorem writePoly_coll (d : PReg) (r : List Byte) :
    (writePoly s d r).coll = s.coll := rfl
@[simp] theorem writePoly_errCode (d : PReg) (r : List Byte) :
    (writePoly s d r).errCode = s.errCode := rfl
@[simp] theorem writePoly_lastOp (d : PReg) (r : List Byte) :
    (writePoly s d r).lastOp = s.lastOp := rfl
@[simp] theorem writePoly_cfgVersion (d : PReg) (r : List Byte) :
    (writePoly s d r).cfgVersion = s.cfgVersion := rfl
@[simp] theorem writePoly_cfgLevel (d : PReg) (r : List Byte) :
    (writePoly s d r).cfgLevel = s.cfgLevel := rfl
@[simp] theorem writePoly_cfgMaxVer (d : PReg) (r : List Byte) :
    (writePoly s d r).cfgMaxVer = s.cfgMaxVer := rfl
@[simp] theorem writePoly_arg0 (d : PReg) (r : List Byte) :
    (writePoly s d r).arg0 = s.arg0 := rfl
@[simp] theorem writePoly_arg1 (d : PReg) (r : List Byte) :
    (writePoly s d r).arg1 = s.arg1 := rfl
@[simp] theorem writePoly_result (d : PReg) (r : List Byte) :
    (writePoly s d r).result = s.result := rfl
@[simp] theorem writePoly_bitLen (d : PReg) (r : List Byte) :
    (writePoly s d r).bitLen = s.bitLen := rfl
@[simp] theorem writePoly_cwLen (d : PReg) (r : List Byte) :
    (writePoly s d r).cwLen = s.cwLen := rfl
@[simp] theorem writePoly_nseg (d : PReg) (r : List Byte) :
    (writePoly s d r).nseg = s.nseg := rfl
@[simp] theorem writePoly_resVersion (d : PReg) (r : List Byte) :
    (writePoly s d r).resVersion = s.resVersion := rfl
@[simp] theorem writePoly_resMode (d : PReg) (r : List Byte) :
    (writePoly s d r).resMode = s.resMode := rfl
@[simp] theorem writePoly_resMask (d : PReg) (r : List Byte) :
    (writePoly s d r).resMask = s.resMask := rfl
@[simp] theorem writePoly_tplVer (d : PReg) (r : List Byte) :
    (writePoly s d r).tplVer = s.tplVer := rfl
@[simp] theorem writePoly_finalVer (d : PReg) (r : List Byte) :
    (writePoly s d r).finalVer = s.finalVer := rfl
@[simp] theorem writePoly_ecNBlocks (d : PReg) (r : List Byte) :
    (writePoly s d r).ecNBlocks = s.ecNBlocks := rfl
@[simp] theorem writePoly_ecEcpb (d : PReg) (r : List Byte) :
    (writePoly s d r).ecEcpb = s.ecEcpb := rfl
@[simp] theorem writePoly_ecTotal (d : PReg) (r : List Byte) :
    (writePoly s d r).ecTotal = s.ecTotal := rfl
@[simp] theorem writePoly_best (d : PReg) (r : List Byte) :
    (writePoly s d r).best = s.best := rfl
@[simp] theorem writePoly_pen (d : PReg) (r : List Byte) :
    (writePoly s d r).pen = s.pen := rfl
@[simp] theorem writePoly_plen (d : PReg) (r : List Byte) :
    (writePoly s d r).plen = s.plen.set d.val (BitVec.ofNat 9 r.length) := rfl
@[simp] theorem writePoly_mem (d : PReg) (r : List Byte) :
    (writePoly s d r).mem = Memory.setBytes s.mem (pcoefBase d) r := rfl
@[simp] theorem writePoly_inFlight (d : PReg) (r : List Byte) :
    (writePoly s d r).inFlight = s.inFlight := rfl
@[simp] theorem writePoly_hostQueue (d : PReg) (r : List Byte) :
    (writePoly s d r).hostQueue = s.hostQueue := rfl
@[simp] theorem writePoly_response (d : PReg) (r : List Byte) :
    (writePoly s d r).response = s.response := rfl
@[simp] theorem writePoly_draws (d : PReg) (r : List Byte) :
    (writePoly s d r).draws = s.draws := rfl
@[simp] theorem writePoly_params (d : PReg) (r : List Byte) :
    (writePoly s d r).params = s.params := rfl
@[simp] theorem writeEcInfo_ieDone (bs : List Block) : (writeEcInfo s bs).ieDone = s.ieDone := rfl
@[simp] theorem writeEcInfo_ieErr (bs : List Block) : (writeEcInfo s bs).ieErr = s.ieErr := rfl
@[simp] theorem writeEcInfo_done (bs : List Block) : (writeEcInfo s bs).done = s.done := rfl
@[simp] theorem writeEcInfo_err (bs : List Block) : (writeEcInfo s bs).err = s.err := rfl
@[simp] theorem writeEcInfo_coll (bs : List Block) : (writeEcInfo s bs).coll = s.coll := rfl
@[simp] theorem writeEcInfo_errCode (bs : List Block) : (writeEcInfo s bs).errCode = s.errCode := rfl
@[simp] theorem writeEcInfo_lastOp (bs : List Block) : (writeEcInfo s bs).lastOp = s.lastOp := rfl
@[simp] theorem writeEcInfo_cfgVersion (bs : List Block) : (writeEcInfo s bs).cfgVersion = s.cfgVersion := rfl
@[simp] theorem writeEcInfo_cfgLevel (bs : List Block) : (writeEcInfo s bs).cfgLevel = s.cfgLevel := rfl
@[simp] theorem writeEcInfo_cfgMaxVer (bs : List Block) : (writeEcInfo s bs).cfgMaxVer = s.cfgMaxVer := rfl
@[simp] theorem writeEcInfo_arg0 (bs : List Block) : (writeEcInfo s bs).arg0 = s.arg0 := rfl
@[simp] theorem writeEcInfo_arg1 (bs : List Block) : (writeEcInfo s bs).arg1 = s.arg1 := rfl
@[simp] theorem writeEcInfo_result (bs : List Block) : (writeEcInfo s bs).result = s.result := rfl
@[simp] theorem writeEcInfo_bitLen (bs : List Block) : (writeEcInfo s bs).bitLen = s.bitLen := rfl
@[simp] theorem writeEcInfo_cwLen (bs : List Block) : (writeEcInfo s bs).cwLen = s.cwLen := rfl
@[simp] theorem writeEcInfo_nseg (bs : List Block) : (writeEcInfo s bs).nseg = s.nseg := rfl
@[simp] theorem writeEcInfo_resVersion (bs : List Block) : (writeEcInfo s bs).resVersion = s.resVersion := rfl
@[simp] theorem writeEcInfo_resMode (bs : List Block) : (writeEcInfo s bs).resMode = s.resMode := rfl
@[simp] theorem writeEcInfo_resMask (bs : List Block) : (writeEcInfo s bs).resMask = s.resMask := rfl
@[simp] theorem writeEcInfo_tplVer (bs : List Block) : (writeEcInfo s bs).tplVer = s.tplVer := rfl
@[simp] theorem writeEcInfo_finalVer (bs : List Block) : (writeEcInfo s bs).finalVer = s.finalVer := rfl
@[simp] theorem writeEcInfo_ecNBlocks (bs : List Block) : (writeEcInfo s bs).ecNBlocks = BitVec.ofNat 8 bs.length := rfl
@[simp] theorem writeEcInfo_ecEcpb (bs : List Block) : (writeEcInfo s bs).ecEcpb = BitVec.ofNat 8 ((bs.map Block.error).headD 0) := rfl
@[simp] theorem writeEcInfo_ecTotal (bs : List Block) : (writeEcInfo s bs).ecTotal = BitVec.ofNat 16 (totalCodewords bs) := rfl
@[simp] theorem writeEcInfo_best (bs : List Block) : (writeEcInfo s bs).best = s.best := rfl
@[simp] theorem writeEcInfo_pen (bs : List Block) : (writeEcInfo s bs).pen = s.pen := rfl
@[simp] theorem writeEcInfo_plen (bs : List Block) : (writeEcInfo s bs).plen = s.plen := rfl
@[simp] theorem writeEcInfo_mem (bs : List Block) : (writeEcInfo s bs).mem = s.mem := rfl
@[simp] theorem writeEcInfo_inFlight (bs : List Block) : (writeEcInfo s bs).inFlight = s.inFlight := rfl
@[simp] theorem writeEcInfo_hostQueue (bs : List Block) : (writeEcInfo s bs).hostQueue = s.hostQueue := rfl
@[simp] theorem writeEcInfo_response (bs : List Block) : (writeEcInfo s bs).response = s.response := rfl
@[simp] theorem writeEcInfo_draws (bs : List Block) : (writeEcInfo s bs).draws = s.draws := rfl
@[simp] theorem writeEcInfo_params (bs : List Block) : (writeEcInfo s bs).params = s.params := rfl

end

end Sys2Proof.Machine
end

