-- ==== Sys2Proof/Laws/Ops.lean ====
section
/-! SUPPORT. One lemma per shared operation: what it answers, what it changes and what it leaves alone. -/

namespace Sys2Proof.Machine

/-! ## Outcomes -/

/-- A command completes with success, or fails with an error that changes only STATUS. -/
theorem complete_cases {s t : State} {rule : Rule} (h : complete s rule = .next t) :
    (∃ u, rule s = .ok u ∧ t = u.succeed) ∨ (∃ e, rule s = .error e ∧ t = s.raise e) := by
  simp only [complete, Host.Outcome.next.injEq] at h
  subst h
  cases hr : rule s with
  | ok u => exact .inl ⟨u, rfl, rfl⟩
  | error e => exact .inr ⟨e, rfl, rfl⟩

theorem complete_ok {s u : State} {rule : Rule} (h : rule s = .ok u) : complete s rule = .next u.succeed := by
  simp [complete, State.finish, h]

theorem complete_error {s : State} {rule : Rule} {e : ErrCode} (h : rule s = .error e) :
    complete s rule = .next (s.raise e) := by
  simp [complete, State.finish, h]

theorem runSteps_cons_ok {rule : Rule} {rest : List Rule} {s t : State} (h : rule s = .ok t) :
    runSteps (rule :: rest) s = runSteps rest t := by
  simp [runSteps, h]

theorem runSteps_cons_error {rule : Rule} {rest : List Rule} {s : State} {e : ErrCode} (h : rule s = .error e) :
    runSteps (rule :: rest) s = (s, some e) := by
  simp [runSteps, h]

/-- Steps that end without error may be followed by further ones. -/
theorem runSteps_append {first second : List Rule} {s t : State} (h : runSteps first s = (t, none)) :
    runSteps (first ++ second) s = runSteps second t := by
  induction first generalizing s with
  | nil =>
    simp only [runSteps, Prod.mk.injEq] at h
    simp [h.1]
  | cons rule rest ih =>
    cases hr : rule s with
    | ok u => rw [runSteps_cons_ok hr] at h; rw [List.cons_append, runSteps_cons_ok hr, ih h]
    | error e => simp [runSteps_cons_error hr] at h

/-- Steps that end with an error end any longer sequence with it. -/
theorem runSteps_append_error {first second : List Rule} {s t : State} {e : ErrCode}
    (h : runSteps first s = (t, some e)) : runSteps (first ++ second) s = (t, some e) := by
  induction first generalizing s with
  | nil => simp [runSteps] at h
  | cons rule rest ih =>
    cases hr : rule s with
    | ok u => rw [runSteps_cons_ok hr] at h; rw [List.cons_append, runSteps_cons_ok hr, ih h]
    | error e => rw [runSteps_cons_error hr] at h; rw [List.cons_append, runSteps_cons_error hr, h]

/-- A property every step keeps holds of the state the steps reach. -/
theorem runSteps_keeps {P : State → Prop} {steps : List Rule} {s : State}
    (hstep : ∀ rule ∈ steps, ∀ u v, P u → rule u = .ok v → P v) (hs : P s) : P (runSteps steps s).1 := by
  induction steps generalizing s with
  | nil => exact hs
  | cons rule rest ih =>
    cases hr : rule s with
    | ok u =>
      rw [runSteps_cons_ok hr]
      exact ih (fun r hm => hstep r (List.mem_cons_of_mem _ hm)) (hstep rule List.mem_cons_self s u hs hr)
    | error e => rw [runSteps_cons_error hr]; exact hs

/-- Every command answers a next state: none faults and none is refused. -/
theorem exec_next (i : Instr) (s : State) : ∃ t, exec i s = .next t := by
  cases i <;> exact ⟨_, rfl⟩

/-- Every step answers a next state. -/
theorem step_next (s : State) : ∃ t, step s = .next t := by
  simp only [step]
  split
  · exact ⟨_, rfl⟩
  · split
    · simp only [runWord]
      split
      · exact exec_next _ _
      · exact ⟨_, rfl⟩
    · exact ⟨_, rfl⟩

/-- What a step can do: a command in flight with no cycles left completes, or the host's next access takes effect. -/
theorem step_cases {s t : State} (h : step s = .next t) :
    (∃ f i, s.inFlight = some f ∧ f.left = 0 ∧ decode f.word = .ok i ∧ exec i s = .next t) ∨
    (∃ f e, s.inFlight = some f ∧ f.left = 0 ∧ decode f.word = .error e ∧ t = s.raise .illegal) ∨
    (s.inFlight = none ∧ t = s.hostStep) ∨
    (∃ f, s.inFlight = some f ∧ f.left ≠ 0 ∧ t = (s.tick f).hostStep) := by
  simp only [step] at h
  split at h
  · rename_i hf
    exact .inr (.inr (.inl ⟨hf, by simpa using h.symm⟩))
  · rename_i f hf
    split at h
    · rename_i h0
      simp only [runWord] at h
      split at h
      · rename_i i hd
        exact .inl ⟨f, i, hf, h0, hd, h⟩
      · rename_i e hd
        exact .inr (.inl ⟨f, e, hf, h0, hd, by simpa using h.symm⟩)
    · rename_i h0
      exact .inr (.inr (.inr ⟨f, hf, h0, by simpa using h.symm⟩))

/-! ## Bytes -/

theorem windowOf_eq_of_lt {a : Nat} (h : 0x005000 ≤ a ∧ a < 0x006000) : windowOf a = some .bb := by
  simp only [windowOf]
  repeat' first | (rw [if_neg (by omega)]) | (rw [if_pos (by omega)])

theorem windowOf_pcoef {a : Nat} (h : 0x003000 ≤ a ∧ a < 0x003400) : windowOf a = some .pcoef := by
  simp only [windowOf]
  repeat' first | (rw [if_neg (by omega)]) | (rw [if_pos (by omega)])

theorem windowOf_cw {a : Nat} (h : 0x006000 ≤ a ∧ a < 0x007000) : windowOf a = some .cw := by
  simp only [windowOf]
  repeat' first | (rw [if_neg (by omega)]) | (rw [if_pos (by omega)])

theorem windowOf_tpl {a : Nat} (h : 0x010000 ≤ a ∧ a < 0x018000) : windowOf a = some .tpl := by
  simp only [windowOf]
  repeat' first | (rw [if_neg (by omega)]) | (rw [if_pos (by omega)])

theorem windowOf_final {a : Nat} (h : 0x018000 ≤ a ∧ a < 0x020000) : windowOf a = some .final := by
  simp only [windowOf]
  repeat' first | (rw [if_neg (by omega)]) | (rw [if_pos (by omega)])

theorem windowOf_trial {a m : Nat} (hm : m < 8) (h : 0x020000 + 0x8000 * m ≤ a ∧ a < 0x020000 + 0x8000 * m + 0x8000) :
    windowOf a = some (.trial m) := by
  simp only [windowOf]
  repeat' first | (rw [if_neg (by omega)]) | (rw [if_pos (by omega)])
  congr 2
  omega

/-- A window's size in bytes (`20_memory.md` R71). -/
def Window.size : Window → Nat
  | .expRom | .logRom => 0x100
  | .segDesc => 0x80
  | .pcoef => 0x400
  | .data | .bb | .cw => 0x1000
  | .tpl | .final | .trial _ => 0x8000

theorem ite_eq_some {α : Type} {p : Prop} [Decidable p] {x y : Option α} {w : α}
    (h : (if p then x else y) = some w) : p ∧ x = some w ∨ ¬p ∧ y = some w := by
  by_cases hp : p
  · exact .inl ⟨hp, by rwa [if_pos hp] at h⟩
  · exact .inr ⟨hp, by rwa [if_neg hp] at h⟩

/-- Where an address lies in its window. -/
theorem windowOf_some {a : Nat} {w : Window} (h : windowOf a = some w) : w.base ≤ a ∧ a < w.base + w.size := by
  unfold windowOf at h
  rcases ite_eq_some h with ⟨h0, h⟩ | ⟨h0, h⟩
  · cases h
  rcases ite_eq_some h with ⟨h1, h⟩ | ⟨h1, h⟩
  · cases h; simp only [Window.base, Window.size]; omega
  rcases ite_eq_some h with ⟨h2, h⟩ | ⟨h2, h⟩
  · cases h; simp only [Window.base, Window.size]; omega
  rcases ite_eq_some h with ⟨h3, h⟩ | ⟨h3, h⟩
  · cases h
  rcases ite_eq_some h with ⟨h4, h⟩ | ⟨h4, h⟩
  · cases h; simp only [Window.base, Window.size]; omega
  rcases ite_eq_some h with ⟨h5, h⟩ | ⟨h5, h⟩
  · cases h
  rcases ite_eq_some h with ⟨h6, h⟩ | ⟨h6, h⟩
  · cases h; simp only [Window.base, Window.size]; omega
  rcases ite_eq_some h with ⟨h7, h⟩ | ⟨h7, h⟩
  · cases h
  rcases ite_eq_some h with ⟨h8, h⟩ | ⟨h8, h⟩
  · cases h; simp only [Window.base, Window.size]; omega
  rcases ite_eq_some h with ⟨h9, h⟩ | ⟨h9, h⟩
  · cases h; simp only [Window.base, Window.size]; omega
  rcases ite_eq_some h with ⟨h10, h⟩ | ⟨h10, h⟩
  · cases h; simp only [Window.base, Window.size]; omega
  rcases ite_eq_some h with ⟨h11, h⟩ | ⟨h11, h⟩
  · cases h
  rcases ite_eq_some h with ⟨h12, h⟩ | ⟨h12, h⟩
  · cases h; simp only [Window.base, Window.size]; omega
  rcases ite_eq_some h with ⟨h13, h⟩ | ⟨h13, h⟩
  · cases h; simp only [Window.base, Window.size]; omega
  rcases ite_eq_some h with ⟨h14, h⟩ | ⟨h14, h⟩
  · cases h; simp only [Window.base, Window.size]; omega
  cases h

theorem State.byteAt_setBytes_other (s : State) {a b : Nat} (bytes : List Byte) (h : b < a ∨ a + bytes.length ≤ b) :
    (s.setBytes a bytes).byteAt b = s.byteAt b := by
  simp [State.byteAt, byteOf, Memory.get_setBytes_other s.mem bytes h]

theorem State.byteAt_setBytes_at (s : State) {a i : Nat} (bytes : List Byte) (hi : i < bytes.length)
    (hw : Memory.writable (a + i) = true) : (s.setBytes a bytes).byteAt (a + i) = bytes[i] := by
  simp [State.byteAt, byteOf, Memory.get_setBytes_at s.mem bytes hi hw]

/-- Reading a range is reading its bytes one by one. -/
theorem State.bytesAt_eq (s : State) (base len : Nat) :
    s.bytesAt base len = (List.range len).map fun i => s.byteAt (base + i) := by
  simp only [State.bytesAt, State.byteAt, byteOf]
  refine List.map_congr_left fun i hi => ?_
  have hi : i < len := List.mem_range.1 hi
  rw [Memory.get_slice s.mem (by omega)]

@[simp] theorem State.bytesAt_length (s : State) (base len : Nat) : (s.bytesAt base len).length = len := by
  simp [State.bytesAt]

/-! ## Codewords -/

/-- The cells `storeCw` lists. -/
theorem cw_cells_in_range (bytes : List Byte) :
    ∀ c ∈ (bytes.take Config.cwMax).zipIdx.map fun (v, i) => (Window.cw.base + i, v),
      Window.cw.base ≤ c.1 ∧ c.1 < Window.cw.base + Config.cwMax := by
  intro c hc
  obtain ⟨⟨v, i⟩, hm, rfl⟩ := List.mem_map.1 hc
  have := List.snd_lt_of_mem_zipIdx hm
  simp only [List.length_take] at this
  simp only [Window.base]
  omega

theorem lookup_zipIdx (row : List Byte) (b k c : Nat) :
    Memory.lookup ((row.zipIdx k).map fun (v, i) => (b + i, v)) (b + c) = if k ≤ c then row[c - k]? else none := by
  induction row generalizing k with
  | nil => simp [Memory.lookup]
  | cons v rest ih =>
    simp only [List.zipIdx_cons, List.map_cons, Memory.lookup, ih]
    by_cases hk : k = c
    · subst hk; simp
    · rw [if_neg (by omega)]
      by_cases hlt : k ≤ c
      · have : c - k = (c - (k + 1)) + 1 := by omega
        rw [if_pos (by omega), if_pos hlt, this, List.getElem?_cons_succ]
      · rw [if_neg (by omega), if_neg hlt]

theorem State.byteAt_storeCw_outside (s : State) (bytes : List Byte) {a : Nat}
    (h : a < Window.cw.base ∨ Window.cw.base + Config.cwMax ≤ a) : (s.storeCw bytes).byteAt a = s.byteAt a := by
  have hw : windowOf a ≠ some .cw := fun hw => by
    have := windowOf_some hw
    simp only [Window.base, Window.size, Config.cwMax] at *
    omega
  have hg : (s.storeCw bytes).draws.generation a = s.draws.generation a := by
    simp only [State.storeCw_draws, Draws.generation]
    split <;> simp_all
  simp only [State.byteAt, byteOf]
  rw [hg, State.storeCw_mem, Memory.get_replace_outside _ _ h (cw_cells_in_range bytes)]
  rfl

theorem State.byteAt_storeCw_at (s : State) (bytes : List Byte) {i : Nat} (hi : i < bytes.length)
    (hc : i < Config.cwMax) : (s.storeCw bytes).byteAt (Window.cw.base + i) = bytes[i] := by
  have hw : Memory.writable (Window.cw.base + i) = true := by
    simp only [Config.cwMax] at hc
    simp [Memory.writable, Window.base, windowOf_cw (a := 0x006000 + i) (by omega)]
  have hl : Memory.lookup (s.storeCw bytes).mem (Window.cw.base + i) = some bytes[i] := by
    rw [State.storeCw_mem, Memory.lookup_replace_inside _ _ (by omega), lookup_zipIdx]
    simp [hc, hi]
  simp only [State.byteAt, byteOf, Memory.get, hw, hl]
  rfl

/-! ## Matrices -/

theorem mem_matrixCells {base : Nat} {g : Grid} {x : Host.Cell} (h : x ∈ matrixCells base g) :
    ∃ r c, r < Config.mxDim ∧ c < Config.mxDim ∧ x.1 = base + r * Config.mxDim + c := by
  simp only [matrixCells, List.mem_flatMap] at h
  obtain ⟨⟨row, r⟩, hr, hx⟩ := h
  obtain ⟨⟨v, c⟩, hc, rfl⟩ := List.mem_map.1 hx
  have h1 := List.snd_lt_of_mem_zipIdx hr
  have h2 := List.snd_lt_of_mem_zipIdx hc
  simp only [List.length_take] at h1 h2
  exact ⟨r, c, by omega, by omega, rfl⟩

theorem matrixCells_in_range (base : Nat) (g : Grid) :
    ∀ x ∈ matrixCells base g, base ≤ x.1 ∧ x.1 < base + matrixWindowSize := by
  intro x hx
  obtain ⟨r, c, hr, hc, h⟩ := mem_matrixCells hx
  simp only [Config.mxDim, matrixWindowSize] at *
  omega

theorem lookup_matrixRows (rows : List (List Byte)) (base k r c : Nat) (hc : c < Config.mxDim) :
    Memory.lookup ((rows.zipIdx k).flatMap fun (row, r) =>
        (row.take Config.mxDim).zipIdx.map fun (v, c) => (base + r * Config.mxDim + c, v))
      (base + r * Config.mxDim + c) = if k ≤ r then (rows[r - k]?).bind fun row => row[c]? else none := by
  induction rows generalizing k with
  | nil => simp [Memory.lookup]
  | cons row rest ih =>
    simp only [List.zipIdx_cons, List.flatMap_cons, Memory.lookup_append, ih]
    by_cases hk : k = r
    · subst hk
      rw [lookup_zipIdx (row.take Config.mxDim) (base + k * Config.mxDim) 0 c]
      simp only [Nat.zero_le, if_true, Nat.sub_zero, List.getElem?_take, hc, Nat.le_refl, Nat.sub_self,
        List.getElem?_cons_zero, Option.bind_some]
      rw [if_neg (by omega)]
      simp
    · have hn : Memory.lookup ((row.take Config.mxDim).zipIdx.map fun (v, c) => (base + k * Config.mxDim + c, v))
          (base + r * Config.mxDim + c) = none := by
        refine Memory.lookup_eq_none _ fun x hx => ?_
        obtain ⟨⟨v, i⟩, hm, rfl⟩ := List.mem_map.1 hx
        have := List.snd_lt_of_mem_zipIdx hm
        simp only [List.length_take, Config.mxDim] at *
        omega
      rw [hn, Option.none_or]
      by_cases hlt : k ≤ r
      · have : r - k = (r - (k + 1)) + 1 := by omega
        rw [if_pos (by omega), if_pos hlt, this, List.getElem?_cons_succ]
      · rw [if_neg (by omega), if_neg hlt]

theorem lookup_matrixCells (base : Nat) (g : Grid) {r c : Nat} (hr : r < Config.mxDim) (hc : c < Config.mxDim) :
    Memory.lookup (matrixCells base g) (base + r * Config.mxDim + c) = (g[r]?).bind fun row => row[c]? := by
  rw [matrixCells, lookup_matrixRows _ _ _ _ _ hc]
  simp [hr]

/-- Every matrix window's cells can change. -/
theorem writable_matrix {w : Window} (hw : w = .tpl ∨ w = .final ∨ ∃ m, m < 8 ∧ w = .trial m) {r c : Nat}
    (hr : r < Config.mxDim) (hc : c < Config.mxDim) :
    Memory.writable (w.base + r * Config.mxDim + c) = true ∧
      Memory.unlisted (w.base + r * Config.mxDim + c) = none ∧
      windowOf (w.base + r * Config.mxDim + c) = some w := by
  have hcell : ∀ b, b % 0x8000 = 0 → isCellOffset (b + r * 177 + c) = true := by
    intro b hb
    simp only [Config.mxDim] at hr hc
    have : r * 177 + c < 177 * 177 := by omega
    have : (b + r * 177 + c) % 0x8000 = r * 177 + c := by omega
    simpa only [isCellOffset, matrixWindowSize, Config.mxDim, this, decide_eq_true_eq]
  have hwin : windowOf (w.base + r * Config.mxDim + c) = some w := by
    simp only [Config.mxDim] at *
    rcases hw with rfl | rfl | ⟨m, hm, rfl⟩
    · exact windowOf_tpl (by simp only [Window.base]; omega)
    · exact windowOf_final (by simp only [Window.base]; omega)
    · exact windowOf_trial hm (by simp only [Window.base]; omega)
  have hc' : isCellOffset (w.base + r * Config.mxDim + c) = true := by
    rcases hw with rfl | rfl | ⟨m, hm, rfl⟩
    · exact hcell _ (by simp [Window.base])
    · exact hcell _ (by simp [Window.base])
    · exact hcell _ (by simp only [Window.base]; omega)
  refine ⟨?_, ?_, hwin⟩
  · rcases hw with rfl | rfl | ⟨m, hm, rfl⟩ <;> simp [Memory.writable, hwin, hc']
  · rcases hw with rfl | rfl | ⟨m, hm, rfl⟩ <;> simp [Memory.unlisted, hwin, hc']

/-- A matrix just stored reads back, cell by cell. -/
theorem State.byteAt_of_matrixMem {s t : State} {w : Window} {g : Grid}
    (hw : w = .tpl ∨ w = .final ∨ ∃ m, m < 8 ∧ w = .trial m) (ht : t.mem = s.matrixMem w g) {r c : Nat}
    (hr : r < Config.mxDim) (hc : c < Config.mxDim) {v : Byte} (hv : ((g[r]?).bind fun row => row[c]?) = some v) :
    t.byteAt (w.base + r * Config.mxDim + c) = v := by
  obtain ⟨h1, h2, -⟩ := writable_matrix hw hr hc
  have hin : w.base ≤ w.base + r * Config.mxDim + c ∧ w.base + r * Config.mxDim + c < w.base + matrixWindowSize := by
    simp only [Config.mxDim, matrixWindowSize] at *
    omega
  simp only [State.byteAt, byteOf, Memory.get, h1, if_true, ht, State.matrixMem,
    Memory.lookup_replace_inside _ _ hin, lookup_matrixCells _ _ hr hc, hv]
  rfl

/-- Storing a matrix leaves every byte outside its window alone. -/
theorem State.get_matrixMem_outside (s : State) (w : Window) (g : Grid) {a : Nat}
    (h : a < w.base ∨ w.base + matrixWindowSize ≤ a) : Memory.get (s.matrixMem w g) a = Memory.get s.mem a :=
  Memory.get_replace_outside _ _ h (matrixCells_in_range w.base g)

theorem State.byteAt_storeTpl_outside (s : State) (g : Grid) {a : Nat} (h : a < 0x010000 ∨ 0x018000 ≤ a) :
    (s.storeTpl g).byteAt a = s.byteAt a := by
  have hw : windowOf a ≠ some .tpl := fun hw => by
    have := windowOf_some hw
    simp only [Window.base, Window.size] at this
    omega
  have hg : (s.storeTpl g).draws.generation a = s.draws.generation a := by
    simp only [State.storeTpl_draws, Draws.generation]
    split <;> simp_all
  simp only [State.byteAt, byteOf]
  rw [hg, State.storeTpl_mem, State.get_matrixMem_outside s .tpl g (by simp only [Window.base, matrixWindowSize]; omega)]
  rfl

theorem State.byteAt_storeFinal_outside (s : State) (g : Grid) {a : Nat} (h : a < 0x018000 ∨ 0x020000 ≤ a) :
    (s.storeFinal g).byteAt a = s.byteAt a := by
  have hw : windowOf a ≠ some .final := fun hw => by
    have := windowOf_some hw
    simp only [Window.base, Window.size] at this
    omega
  have hg : (s.storeFinal g).draws.generation a = s.draws.generation a := by
    simp only [State.storeFinal_draws, Draws.generation]
    split <;> simp_all
  simp only [State.byteAt, byteOf]
  rw [hg, State.storeFinal_mem, State.get_matrixMem_outside s .final g (by simp only [Window.base, matrixWindowSize]; omega)]
  rfl

theorem State.byteAt_storeTrial_outside (s : State) (m : Nat) (g : Grid) {a : Nat}
    (h : a < 0x020000 + 0x8000 * m ∨ 0x020000 + 0x8000 * m + 0x8000 ≤ a) :
    (s.storeTrial m g).byteAt a = s.byteAt a := by
  have hw : windowOf a ≠ some (.trial m) := fun hw => by
    have := windowOf_some hw
    simp only [Window.base, Window.size] at this
    omega
  have hg : (s.storeTrial m g).draws.generation a = s.draws.generation a := by
    simp only [State.storeTrial_draws, Draws.generation]
    split <;> try rfl
    rename_i k hk
    have hmk : m ≠ k := fun hmk => hw (hmk ▸ hk)
    simp [List.getD_eq_getElem?_getD, hmk]
  simp only [State.byteAt, byteOf]
  rw [hg, State.storeTrial_mem, State.get_matrixMem_outside s (.trial m) g
    (by simp only [Window.base, matrixWindowSize]; omega)]
  rfl

/-- The matrix a window holds, cell by cell. -/
theorem State.matrixAt_eq (s : State) (w : Window) {n : Nat} (hn : n ≤ Config.mxDim) :
    s.matrixAt w n = (List.range n).map fun r => (List.range n).map fun c => s.byteAt (w.base + r * Config.mxDim + c) := by
  simp only [State.matrixAt, State.bytesAt_eq]
  refine List.map_congr_left fun r hr => List.map_congr_left fun c hc => ?_
  have hr : r < n := List.mem_range.1 hr
  have hc : c < n := List.mem_range.1 hc
  simp only [State.byteAt, byteOf]
  rw [Memory.get_slice s.mem (by simp only [Config.mxDim, matrixWindowSize] at *; omega)]

/-! ## The canonical form of stored cells -/

theorem pairwise_zipIdx_map (row : List Byte) (b k : Nat) :
    ((row.zipIdx k).map fun (v, i) => ((b + i, v) : Host.Cell)).Pairwise fun c d => c.1 < d.1 := by
  induction row generalizing k with
  | nil => simp
  | cons v rest ih =>
    simp only [List.zipIdx_cons, List.map_cons, List.pairwise_cons]
    refine ⟨fun c hc => ?_, ih (k + 1)⟩
    obtain ⟨⟨w, i⟩, hm, rfl⟩ := List.mem_map.1 hc
    have := List.le_snd_of_mem_zipIdx hm
    show b + k < b + i
    omega

theorem State.storeCw_wf (s : State) (bytes : List Byte) (h : Memory.wf s.mem) : Memory.wf (s.storeCw bytes).mem := by
  rw [State.storeCw_mem]
  refine Memory.wf_replace h ⟨pairwise_zipIdx_map _ _ 0, fun c hc => ?_⟩ (cw_cells_in_range bytes)
  have hr := cw_cells_in_range bytes c hc
  simp only [Window.base, Config.cwMax] at hr
  have hw := windowOf_cw (a := c.1) (by omega)
  simp [Memory.writable, Memory.unlisted, hw]

theorem pairwise_matrixRows (rows : List (List Byte)) (base k : Nat) :
    ((rows.zipIdx k).flatMap fun (row, r) =>
        (row.take Config.mxDim).zipIdx.map fun (v, c) => ((base + r * Config.mxDim + c, v) : Host.Cell)).Pairwise
      fun c d => c.1 < d.1 := by
  induction rows generalizing k with
  | nil => simp
  | cons row rest ih =>
    simp only [List.zipIdx_cons, List.flatMap_cons]
    refine List.pairwise_append.2 ⟨pairwise_zipIdx_map _ _ 0, ih (k + 1), fun x hx y hy => ?_⟩
    obtain ⟨⟨v, c⟩, hm, rfl⟩ := List.mem_map.1 hx
    obtain ⟨⟨row', r⟩, hr, hy⟩ := List.mem_flatMap.1 hy
    obtain ⟨⟨w, d⟩, hd, rfl⟩ := List.mem_map.1 hy
    have h1 := List.snd_lt_of_mem_zipIdx hm
    have h2 := List.le_snd_of_mem_zipIdx hr
    simp only [List.length_take, Config.mxDim] at *
    omega

/-- A matrix's cells at a matrix window are in canonical form. -/
theorem matrixCells_wf {w : Window} (hw : w = .tpl ∨ w = .final ∨ ∃ m, m < 8 ∧ w = .trial m) (g : Grid) :
    Memory.wf (matrixCells w.base g) := by
  refine ⟨pairwise_matrixRows _ _ 0, fun x hx => ?_⟩
  obtain ⟨r, c, hr, hc, h⟩ := mem_matrixCells hx
  obtain ⟨h1, h2, -⟩ := writable_matrix hw hr hc
  rw [h]
  exact ⟨h1, by simp [h2]⟩

theorem State.matrixMem_wf {s : State} {w : Window} (hw : w = .tpl ∨ w = .final ∨ ∃ m, m < 8 ∧ w = .trial m) (g : Grid)
    (h : Memory.wf s.mem) : Memory.wf (s.matrixMem w g) :=
  Memory.wf_replace h (matrixCells_wf hw g) (matrixCells_in_range w.base g)

end Sys2Proof.Machine
end

