-- ==== Sys2Proof/Laws/BitBuffer.lean ====
section
/-! SUPPORT. What appending bits does: BITLEN, the appended bits, the bits before, every other byte. -/

namespace Sys2Proof.Machine

theorem setByteBit_getLsbD (v : Byte) {j k : Nat} (hj : j < 8) (hk : k < 8) (b : Bool) :
    (setByteBit v j b).getLsbD k = if k = j then b else v.getLsbD k := by
  simp only [setByteBit, BitVec.getLsbD_or, BitVec.getLsbD_and, BitVec.getLsbD_not, BitVec.getLsbD_shiftLeft]
  by_cases h : k = j
  · subst h
    cases b <;> simp [hk]
  · by_cases hlt : k < j
    · cases b <;> simp [hk, hlt, h]
    · have : k - j ≠ 0 := by omega
      cases b <;> simp [hk, hlt, h, this]

theorem writable_bb {a : Nat} (h : 0x005000 ≤ a ∧ a < 0x006000) : Memory.writable a = true := by
  simp [Memory.writable, windowOf_eq_of_lt h]

theorem State.byteAt_putBit_other (s : State) (b : Bool) {a : Nat} (h : a ≠ 0x005000 + s.bitLen.toNat / 8) :
    (s.putBit b).byteAt a = s.byteAt a := by
  simp only [State.byteAt, byteOf, State.putBit_mem, State.putBit_draws]
  rw [Memory.get_set_other _ _ (by simpa only [Window.base] using h)]

theorem State.byteAt_putBit_same (s : State) (b : Bool) (h : s.bitLen.toNat < 32768) :
    (s.putBit b).byteAt (0x005000 + s.bitLen.toNat / 8) =
      setByteBit (s.byteAt (0x005000 + s.bitLen.toNat / 8)) (7 - s.bitLen.toNat % 8) b := by
  have hw := writable_bb (a := 0x005000 + s.bitLen.toNat / 8) (by omega)
  simp only [State.byteAt, byteOf, State.putBit_mem, State.putBit_draws, Window.base]
  rw [Memory.get_set_same _ _ hw]
  rfl

theorem State.putBit_bitLen_toNat (s : State) (b : Bool) (h : s.bitLen.toNat < 32768) :
    (s.putBit b).bitLen.toNat = s.bitLen.toNat + 1 := by
  have h1 : (1 : BitVec 16).toNat = 1 := rfl
  simp only [State.putBit_bitLen, BitVec.toNat_add, h1]
  omega

/-- One appended bit stands at position BITLEN; every other bit of the buffer stays. -/
theorem State.bbBit_putBit (s : State) (b : Bool) (k : Nat) (h : s.bitLen.toNat < 32768) :
    (s.putBit b).bbBit k = if k = s.bitLen.toNat then b else s.bbBit k := by
  simp only [State.bbBit]
  by_cases hb : k / 8 = s.bitLen.toNat / 8
  · rw [hb, State.byteAt_putBit_same s b h, setByteBit_getLsbD _ (by omega) (by omega)]
    by_cases hk : k = s.bitLen.toNat
    · simp [hk]
    · rw [if_neg (by omega), if_neg hk]
  · rw [State.byteAt_putBit_other s b (by omega), if_neg (by rintro rfl; exact hb rfl)]

/-- Appending changes memory and BITLEN only. -/
theorem State.putBits_frame (s : State) (bits : List Bool) :
    s.putBits bits = { s with mem := (s.putBits bits).mem, bitLen := (s.putBits bits).bitLen } := by
  induction bits generalizing s with
  | nil => rfl
  | cons b rest ih => rw [State.putBits, ih]; rfl

theorem State.putBits_bitLen (s : State) (bits : List Bool) (h : s.bitLen.toNat + bits.length ≤ 32768) :
    (s.putBits bits).bitLen.toNat = s.bitLen.toNat + bits.length := by
  induction bits generalizing s with
  | nil => rfl
  | cons b rest ih =>
    simp only [List.length_cons] at h
    have hb := State.putBit_bitLen_toNat s b (by omega)
    rw [State.putBits, ih _ (by omega), hb, List.length_cons]
    omega

/-- The bits of the buffer after an append: the appended ones from BITLEN on, in order, and the others as before. -/
theorem State.bbBit_putBits (s : State) (bits : List Bool) (k : Nat) (h : s.bitLen.toNat + bits.length ≤ 32768) :
    (s.putBits bits).bbBit k =
      if s.bitLen.toNat ≤ k ∧ k < s.bitLen.toNat + bits.length then bits.getD (k - s.bitLen.toNat) false
      else s.bbBit k := by
  induction bits generalizing s with
  | nil => rw [State.putBits, if_neg (by simp only [List.length_nil]; omega)]
  | cons b rest ih =>
    simp only [List.length_cons] at h ⊢
    have hb := State.putBit_bitLen_toNat s b (by omega)
    rw [State.putBits, ih _ (by omega), hb, State.bbBit_putBit s b k (by omega)]
    by_cases h1 : k = s.bitLen.toNat
    · subst h1
      simp
    · by_cases h2 : s.bitLen.toNat + 1 ≤ k ∧ k < s.bitLen.toNat + 1 + rest.length
      · have : k - s.bitLen.toNat = (k - (s.bitLen.toNat + 1)) + 1 := by omega
        rw [if_pos h2, if_pos (by omega), this, List.getD_cons_succ]
      · rw [if_neg h2, if_neg h1, if_neg (by omega)]

/-- Only the bytes that hold the appended bits may change. -/
theorem State.byteAt_putBits_outside (s : State) (bits : List Bool) {a : Nat}
    (h : s.bitLen.toNat + bits.length ≤ 32768)
    (ha : a < 0x005000 + s.bitLen.toNat / 8 ∨ 0x005000 + (s.bitLen.toNat + bits.length + 7) / 8 ≤ a) :
    (s.putBits bits).byteAt a = s.byteAt a := by
  induction bits generalizing s with
  | nil => rfl
  | cons b rest ih =>
    simp only [List.length_cons] at h ha
    have hb := State.putBit_bitLen_toNat s b (by omega)
    rw [State.putBits, ih _ (by omega) (by rw [hb]; omega), State.byteAt_putBit_other s b (by omega)]

theorem State.putBits_append (s : State) (xs ys : List Bool) : s.putBits (xs ++ ys) = (s.putBits xs).putBits ys := by
  induction xs generalizing s with
  | nil => rfl
  | cons b rest ih => exact ih _

theorem State.putBits_wf (s : State) (bits : List Bool) (h : Memory.wf s.mem) : Memory.wf (s.putBits bits).mem := by
  induction bits generalizing s with
  | nil => exact h
  | cons b rest ih => exact ih _ (by rw [State.putBit_mem]; exact Memory.wf_set _ _ h)

@[simp] theorem bitsOf_length (value width : Nat) : (bitsOf value width).length = width := by simp [bitsOf]

/-- The bits of a value, most significant first. -/
theorem bitsOf_getD (value : Nat) {width j : Nat} (h : j < width) :
    (bitsOf value width).getD j false = value.testBit (width - 1 - j) := by
  simp [bitsOf, List.getD_eq_getElem?_getD, h]

theorem numericBits_length (p : List Byte) :
    (numericBits p).length = 10 * (p.length / 3) + (if p.length % 3 = 0 then 0 else if p.length % 3 = 1 then 4 else 7) := by
  induction p using numericBits.induct with
  | case1 x y z rest ih =>
    have h1 : (rest.length + 1 + 1 + 1) / 3 = rest.length / 3 + 1 := by omega
    have h2 : (rest.length + 1 + 1 + 1) % 3 = rest.length % 3 := by omega
    simp only [numericBits, List.length_append, bitsOf_length, ih, List.length_cons, h1, h2]
    omega
  | case2 x y => simp [numericBits]
  | case3 x => simp [numericBits]
  | case4 => simp [numericBits]

theorem alphanumericBits_length (p : List Byte) :
    (alphanumericBits p).length = 11 * (p.length / 2) + 6 * (p.length % 2) := by
  induction p using alphanumericBits.induct with
  | case1 x y rest ih =>
    simp only [alphanumericBits, List.length_append, bitsOf_length, ih, List.length_cons]
    omega
  | case2 x => simp [alphanumericBits]
  | case3 => simp [alphanumericBits]

theorem byteBits_length (p : List Byte) : (byteBits p).length = 8 * p.length := by
  induction p with
  | nil => rfl
  | cons b rest ih =>
    simp only [byteBits, List.flatMap_cons, List.length_append, bitsOf_length, List.length_cons] at ih ⊢
    omega

/-- The payload bits number the content cost (`42_segment.md` R167). -/
theorem payloadBits_length (m : Mode) (p : List Byte) : (payloadBits m p).length = contentBits m p.length := by
  cases m
  · exact numericBits_length p
  · exact alphanumericBits_length p
  · exact byteBits_length p

theorem segmentBits_length (p : Params) (g : Segment) (w : Nat) :
    (segmentBits p g w).length = 4 + w + contentBits g.mode g.payload.length := by
  simp [segmentBits, payloadBits_length, Nat.add_assoc]

end Sys2Proof.Machine
end

