-- ==== Sys2Proof/Laws/Bus.lean ====
section
/-! SUPPORT. The host's accesses: what each can do, once, for every claim about a step the host takes. -/

namespace Sys2Proof.Machine

/-- A read changes the last response and the index of the reads' draws only (`20_memory.md` R79). -/
theorem State.hostRead_frame (s : State) (width : Width) (addr : BitVec 24) :
    s.hostRead width addr =
      { s with response := (s.hostRead width addr).response, draws := (s.hostRead width addr).draws } := rfl

/-- What a write can do to the core: nothing, set COLL, store bytes in a host-writable window, or write a register. -/
theorem State.writeEffect_cases (s : State) (width : Width) (a : Nat) (value : Word) :
    s.writeEffect width a value = s ∨
    (s.busy = true ∧ s.writeEffect width a value = s.collide) ∨
    (∃ w, targetOf width a = .window w ∧ w.hostWritable = true ∧ s.busy = false ∧
      s.writeEffect width a value = s.setBytes a (leBytes width.bytes value)) ∨
    (∃ r, targetOf width a = .reg r ∧ (s.busy && r.droppedWhileBusy) = false ∧
      s.writeEffect width a value = s.writeReg r value) := by
  simp only [State.writeEffect]
  cases ht : targetOf width a with
  | busError => exact .inl rfl
  | reg r =>
    simp only
    split
    · rename_i h
      exact .inr (.inl ⟨by simp only [Bool.and_eq_true] at h; exact h.1, rfl⟩)
    · rename_i h
      exact .inr (.inr (.inr ⟨r, rfl, by simpa using h, rfl⟩))
  | window w =>
    simp only
    split
    · rename_i hw
      split
      · rename_i hb
        exact .inr (.inl ⟨hb, rfl⟩)
      · rename_i hb
        exact .inr (.inr (.inl ⟨w, rfl, hw, by simpa using hb, rfl⟩))
    · exact .inl rfl

/-- What the host's next access can do. -/
theorem State.hostStep_cases (s : State) :
    s.hostStep = s ∨
    (∃ q width addr, s.hostStep = { s with hostQueue := q }.hostRead width addr) ∨
    (∃ width addr value rest, s.hostQueue = .write width addr value :: rest ∧
      s.hostStep = { s with hostQueue := rest }.hostWrite width addr value) := by
  cases hq : s.hostQueue with
  | nil => exact .inl (by simp only [State.hostStep, hq])
  | cons action rest =>
    cases action with
    | read width addr => exact .inr (.inl ⟨rest, width, addr, by simp only [State.hostStep, hq]⟩)
    | write width addr value => exact .inr (.inr ⟨width, addr, value, rest, rfl, by simp only [State.hostStep, hq]⟩)
    | wait =>
      refine .inr (.inl ⟨if s.busy then s.hostQueue else rest, .word, s.statusAddr, ?_⟩)
      simp only [State.hostStep, hq]

end Sys2Proof.Machine
end

