-- ==== Sys2Proof/Laws/Matrix.lean ====
section
/-! SUPPORT. Matrices as tables of cells: setting and reading a cell, square tables stay square, and a matrix stored in
a window reads back. -/

namespace Sys2Proof.Machine

/-! ## Cells of a table -/

theorem Grid.isSquare_set {n : Nat} {g : Grid} (h : g.isSquare n) (r c : Nat) (v : Byte) : (g.set r c v).isSquare n := by
  refine ⟨by simpa [Grid.set] using h.1, fun row hrow => ?_⟩
  obtain ⟨i, hi, rfl⟩ := List.mem_iff_getElem.1 hrow
  simp only [Grid.set, List.length_modify] at hi
  simp only [Grid.set, List.getElem_modify]
  split
  · rw [List.length_set]
    exact h.2 _ (List.getElem_mem _)
  · exact h.2 _ (List.getElem_mem _)

theorem Grid.get_set_same {n : Nat} {g : Grid} (h : g.isSquare n) {r c : Nat} (v : Byte) (hr : r < n) (hc : c < n) :
    (g.set r c v).get r c = v := by
  have hr' : r < g.length := by rw [h.1]; exact hr
  have hc' : c < (g[r]'hr').length := by rw [h.2 _ (List.getElem_mem _)]; exact hc
  simp [Grid.get, Grid.set, List.getD_eq_getElem?_getD, hr', hc']

theorem Grid.get_set_other (g : Grid) {r c r' c' : Nat} (v : Byte) (h : r' ≠ r ∨ c' ≠ c) :
    (g.set r c v).get r' c' = g.get r' c' := by
  by_cases hr : r' = r
  · subst hr
    have hc : c' ≠ c := by simpa using h
    by_cases hl : r' < g.length
    · simp [Grid.get, Grid.set, List.getD_eq_getElem?_getD, hl, Ne.symm hc]
    · simp [Grid.get, Grid.set, List.getD_eq_getElem?_getD, hl]
  · simp [Grid.get, Grid.set, List.getD_eq_getElem?_getD, Ne.symm hr]

theorem Grid.getElem?_of_isSquare {n : Nat} {g : Grid} (h : g.isSquare n) {r c : Nat} (hr : r < n) (hc : c < n) :
    ((g[r]?).bind fun row => row[c]?) = some (g.get r c) := by
  have hr' : r < g.length := by rw [h.1]; exact hr
  have hc' : c < (g[r]'hr').length := by rw [h.2 _ (List.getElem_mem _)]; exact hc
  simp [Grid.get, List.getD_eq_getElem?_getD, hr', hc']

/-- Two square tables with the same cells are the same table. -/
theorem Grid.ext_of_isSquare {n : Nat} {g k : Grid} (hg : g.isSquare n) (hk : k.isSquare n)
    (h : ∀ r c, r < n → c < n → g.get r c = k.get r c) : g = k := by
  refine List.ext_getElem (by rw [hg.1, hk.1]) fun r h1 h2 => ?_
  have hr : r < n := by rw [hg.1] at h1; exact h1
  have l1 := hg.2 _ (List.getElem_mem h1)
  have l2 := hk.2 _ (List.getElem_mem h2)
  refine List.ext_getElem (by rw [l1, l2]) fun c h3 h4 => ?_
  have := h r c hr (by omega)
  simpa [Grid.get, List.getD_eq_getElem?_getD, h1, h2, h3, h4] using this

/-! ## Square tables stay square -/

theorem blankGrid_isSquare (n : Nat) : (blankGrid n).isSquare n := by
  constructor <;> simp [blankGrid]

theorem Grid.isSquare_setAt {n : Nat} {g : Grid} (h : g.isSquare n) (r c : Int) (v : Byte) :
    (g.setAt r c v).isSquare n := by
  simp only [Grid.setAt]
  split
  · exact Grid.isSquare_set h _ _ _
  · exact h

theorem Grid.isSquare_foldl {α : Type} {n : Nat} (f : Grid → α → Grid) (hf : ∀ g x, g.isSquare n → (f g x).isSquare n)
    (xs : List α) {g : Grid} (h : g.isSquare n) : (xs.foldl f g).isSquare n := by
  induction xs generalizing g with
  | nil => exact h
  | cons x rest ih => exact ih (hf g x h)

theorem Grid.isSquare_setAll {n : Nat} {g : Grid} (h : g.isSquare n) (ws : List (Int × Int × Byte)) :
    (g.setAll ws).isSquare n :=
  Grid.isSquare_foldl _ (fun _ _ hg => Grid.isSquare_setAt hg _ _ _) ws h

theorem Grid.isSquare_setUnset {n : Nat} {g : Grid} (h : g.isSquare n) (r c : Nat) (v : Byte) :
    (g.setUnset r c v).isSquare n := by
  simp only [Grid.setUnset]
  split
  · exact Grid.isSquare_set h _ _ _
  · exact h

theorem placeAlignment_isSquare {n : Nat} {g : Grid} (h : g.isSquare n) (p : Nat × Nat) :
    (placeAlignment g p).isSquare n := by
  simp only [placeAlignment]
  split
  · exact Grid.isSquare_setAll h _
  · exact h

/-- The template for a version is a square of its module count (`45_matrix.md` R230). -/
theorem template_isSquare (p : Params) (v : Nat) : (template p v).isSquare (moduleCount v) := by
  refine Grid.isSquare_foldl _ (fun g i hg => Grid.isSquare_setUnset (Grid.isSquare_setUnset hg _ _ _) _ _ _) _ ?_
  refine Grid.isSquare_foldl _ (fun g c hg => placeAlignment_isSquare hg c) _ ?_
  exact Grid.isSquare_setAll (blankGrid_isSquare _) _

theorem placeData_isSquare {n : Nat} (m : Nat) (order : List (Nat × Nat)) (bits : List Bool) {g : Grid}
    (h : g.isSquare n) : (placeData m order bits g).isSquare n := by
  induction order generalizing bits g with
  | nil => exact h
  | cons p rest ih =>
    simp only [placeData]
    split
    · exact ih _ (Grid.isSquare_set h _ _ _)
    · exact ih _ h

theorem placeFormat_isSquare {n k : Nat} (fmt : Nat) (test : Bool) {g : Grid} (h : g.isSquare n) :
    (placeFormat k fmt test g).isSquare n :=
  Grid.isSquare_foldl _ (fun _ _ hg => Grid.isSquare_set (Grid.isSquare_set hg _ _ _) _ _ _) _ h

theorem placeVersion_isSquare {n : Nat} (p : Params) (v k : Nat) (test : Bool) {g : Grid} (h : g.isSquare n) :
    (placeVersion p v k test g).isSquare n := by
  simp only [placeVersion]
  split
  · exact Grid.isSquare_foldl _ (fun _ _ hg => Grid.isSquare_set (Grid.isSquare_set hg _ _ _) _ _ _) _ h
  · exact h

/-- A trial of a square template is square. -/
theorem trialGrid_isSquare {n : Nat} (p : Params) (v : Nat) (lvl : BitVec 2) (bits : List Bool) (m : Nat) (test : Bool) {g : Grid}
    (h : g.isSquare n) : (trialGrid p v lvl bits m test g).isSquare n :=
  placeData_isSquare _ _ _ (placeVersion_isSquare _ _ _ _ (Grid.isSquare_set (placeFormat_isSquare _ _ h) _ _ _))

theorem State.matrixAt_isSquare (s : State) (w : Window) (n : Nat) : (s.matrixAt w n).isSquare n := by
  refine ⟨by simp [State.matrixAt], fun row hrow => ?_⟩
  simp only [State.matrixAt, List.mem_map] at hrow
  obtain ⟨r, -, rfl⟩ := hrow
  simp

theorem trial_isSquare (s : State) (m : Nat) (test : Bool) :
    (trial s m test).isSquare (moduleCount s.tplVer.toNat) :=
  trialGrid_isSquare _ _ _ _ _ _ (State.matrixAt_isSquare _ _ _)

/-! ## A stored matrix reads back -/

/-- A matrix window that holds `g` reads `g`'s cells. -/
theorem State.cell_of_matrixMem {s t : State} {w : Window} {g : Grid} {n : Nat}
    (hw : w = .tpl ∨ w = .final ∨ ∃ m, m < 8 ∧ w = .trial m) (ht : t.mem = s.matrixMem w g) (hg : g.isSquare n)
    (hn : n ≤ 177) {r c : Nat} (hr : r < n) (hc : c < n) : t.cell w r c = g.get r c :=
  State.byteAt_of_matrixMem hw ht (by simp only [Config.mxDim]; omega) (by simp only [Config.mxDim]; omega)
    (Grid.getElem?_of_isSquare hg hr hc)

/-- The cells of the matrix a window holds are the bytes of the window. -/
theorem State.get_matrixAt (s : State) (w : Window) {n r c : Nat} (hn : n ≤ 177) (hr : r < n) (hc : c < n) :
    (s.matrixAt w n).get r c = s.cell w r c := by
  rw [State.matrixAt_eq s w (by simpa only [Config.mxDim] using hn)]
  simp [Grid.get, List.getD_eq_getElem?_getD, hr, hc, State.cell, Config.mxDim]

/-- A matrix stored in a window and read as a matrix of its size is the matrix stored. -/
theorem State.matrixAt_of_matrixMem {s t : State} {w : Window} {g : Grid} {n : Nat}
    (hw : w = .tpl ∨ w = .final ∨ ∃ m, m < 8 ∧ w = .trial m) (ht : t.mem = s.matrixMem w g) (hg : g.isSquare n)
    (hn : n ≤ 177) : t.matrixAt w n = g :=
  Grid.ext_of_isSquare (State.matrixAt_isSquare _ _ _) hg fun r c hr hc => by
    rw [State.get_matrixAt t w hn hr hc, State.cell_of_matrixMem hw ht hg hn hr hc]

end Sys2Proof.Machine
end

