-- ==== Sys2Proof/Laws/PerInstr.lean ====
section
/-! SUPPORT. The encoder against the opcode table, command by command: the words of a well-formed command are those its
row of `opcode_table.json` describes. -/

namespace Sys2Proof.Laws.EncodingMatchesTable

/-- The (match, mask) pair of a command's row (`30_encoding.md` R103, R104). -/
def tableRow : Instr → Word × Word
  | .nop => (0x00000000, 0xFFFFFFFF)
  | .gfLog => (0x00000001, 0xFFFFFFFF)
  | .gfExp => (0x00000002, 0xFFFFFFFF)
  | .polyNorm _ _ => (0x00000010, 0x0000FCFF)
  | .polyMul _ _ _ => (0x00000011, 0xFFFFC0FF)
  | .polyMod _ _ _ => (0x00000012, 0xFFFFC0FF)
  | .polyGen _ _ => (0x00000013, 0x0000FCFF)
  | .segClassify _ => (0x00000020, 0xFFF0FFFF)
  | .segCost _ => (0x00000021, 0xFFF0FFFF)
  | .segWrite _ => (0x00000022, 0xFFF0FFFF)
  | .bbClear => (0x00000028, 0xFFFFFFFF)
  | .bbPut _ => (0x00000029, 0x0000FFFF)
  | .bbEom _ => (0x0000002A, 0x0000FFFF)
  | .bbPad _ => (0x0000002B, 0x0000FFFF)
  | .ecInfo => (0x00000030, 0xFFFFFFFF)
  | .rsAssemble => (0x00000031, 0xFFFFFFFF)
  | .mxTemplate => (0x00000040, 0xFFFFFFFF)
  | .mxTrial _ _ => (0x00000041, 0xFEF0FFFF)
  | .mxScore _ => (0x00000042, 0xFFF0FFFF)
  | .mxEval => (0x00000043, 0xFFFFFFFF)
  | .mxCommit _ _ => (0x00000044, 0xFFE0FFFF)
  | .mxRead => (0x00000045, 0xFFFFFFFF)
  | .verSelect => (0x00000050, 0xFFFFFFFF)
  | .encode => (0x00000051, 0xFFFFFFFF)

/-- The word of a well-formed command has its row's fixed bits. -/
def Statement (i : Instr) : Prop := i.wf = true → encode i &&& (tableRow i).2 = (tableRow i).1

/-- Below bit 16 the immediate of a word does not show. -/
theorem low_half (imm c : Nat) (m : Word) (hm : ∀ i, i < 32 → 16 ≤ i → m.getLsbD i = false) :
    BitVec.ofNat 32 ((imm <<< 16) ||| c) &&& m = BitVec.ofNat 32 c &&& m := by
  refine BitVec.eq_of_getLsbD_eq fun i hi => ?_
  simp only [BitVec.getLsbD_and, BitVec.getLsbD_ofNat, Nat.testBit_or, Nat.testBit_shiftLeft]
  by_cases h : 16 ≤ i
  · simp [hm i hi h]
  · simp [h]

theorem low_half_encP (op imm : Nat) (d a b : PReg) (m : Word) (hm : ∀ i, i < 32 → 16 ≤ i → m.getLsbD i = false) :
    encP op d a b imm &&& m = encP op d a b 0 &&& m := by
  simp only [encP, Nat.or_assoc]
  rw [low_half imm _ m hm, low_half 0 _ m hm]

theorem nop : Statement .nop := fun _ => by decide

theorem gfLog : Statement .gfLog := fun _ => by decide

theorem gfExp : Statement .gfExp := fun _ => by decide

theorem polyNorm (d : PReg) (shift : Nat) : Statement (.polyNorm d shift) := fun h => by
  clear h
  rw [encode, tableRow, low_half_encP _ _ _ _ _ _ (by decide)]
  revert d
  decide

theorem polyMul (d a b : PReg) : Statement (.polyMul d a b) := fun _ => by
  revert d a b
  decide

theorem polyMod (d a b : PReg) : Statement (.polyMod d a b) := fun _ => by
  revert d a b
  decide

theorem polyGen (d : PReg) (n : Nat) : Statement (.polyGen d n) := fun h => by
  clear h
  rw [encode, tableRow, low_half_encP _ _ _ _ _ _ (by decide)]
  revert d
  decide

theorem segClassify (seg : Nat) : Statement (.segClassify seg) := fun h => by
  simp only [Instr.wf, decide_eq_true_eq] at h
  revert seg
  decide

theorem segCost (seg : Nat) : Statement (.segCost seg) := fun h => by
  simp only [Instr.wf, decide_eq_true_eq] at h
  revert seg
  decide

theorem segWrite (seg : Nat) : Statement (.segWrite seg) := fun h => by
  simp only [Instr.wf, decide_eq_true_eq] at h
  revert seg
  decide

theorem bbClear : Statement .bbClear := fun _ => by decide

theorem bbPut (width : Nat) : Statement (.bbPut width) := fun _ => by
  rw [encode, encI, tableRow, low_half _ _ _ (by decide)]
  decide

theorem bbEom (maxBits : Nat) : Statement (.bbEom maxBits) := fun _ => by
  rw [encode, encI, tableRow, low_half _ _ _ (by decide)]
  decide

theorem bbPad (target : Nat) : Statement (.bbPad target) := fun _ => by
  rw [encode, encI, tableRow, low_half _ _ _ (by decide)]
  decide

theorem ecInfo : Statement .ecInfo := fun _ => by decide

theorem rsAssemble : Statement .rsAssemble := fun _ => by decide

theorem mxTemplate : Statement .mxTemplate := fun _ => by decide

theorem mxTrial (mask : Nat) (test : Bool) : Statement (.mxTrial mask test) := fun h => by
  simp only [Instr.wf, decide_eq_true_eq] at h
  revert mask
  cases test <;> decide

theorem mxScore (mask : Nat) : Statement (.mxScore mask) := fun h => by
  simp only [Instr.wf, decide_eq_true_eq] at h
  revert mask
  decide

theorem mxEval : Statement .mxEval := fun _ => by decide

theorem mxCommit (mask : Nat) (useBest : Bool) : Statement (.mxCommit mask useBest) := fun h => by
  simp only [Instr.wf, decide_eq_true_eq] at h
  revert mask
  cases useBest <;> decide

theorem mxRead : Statement .mxRead := fun _ => by decide

theorem verSelect : Statement .verSelect := fun _ => by decide

theorem encode : Statement .encode := fun _ => by decide

end Sys2Proof.Laws.EncodingMatchesTable
end

