-- ==== Sys2Proof/Laws/Poly.lean ====
section
/-! SUPPORT. The polynomial registers: what an operand is, and what a write-back changes. -/

namespace Sys2Proof.Machine

theorem State.poly_length (s : State) (k : PReg) : (s.poly k).length = (s.plen.get k).toNat := by
  simp [State.poly]

/-- An operand is the polynomial its register holds, or one of two errors (`41_poly.md` R141). -/
theorem polyOperand_eq (s : State) (k : PReg) :
    polyOperand s k =
      if (s.plen.get k).toNat = 0 then .error .domainEmpty
      else if s.params.polyMax < (s.plen.get k).toNat then .error .hwPolyLen
      else .ok (s.poly k) := by
  simp only [polyOperand, State.bytesAt_eq, State.poly, pcoefBase, Window.base]

theorem writable_pcoef (d : PReg) {i : Nat} (hi : i < 256) : Memory.writable (pcoefBase d + i) = true := by
  have hd := d.isLt
  have hw := windowOf_pcoef (a := pcoefBase d + i) (by simp only [pcoefBase, Window.base]; omega)
  simp [Memory.writable, hw]

/-- A write-back stores the result in the register and changes nothing else (`41_poly.md` R146). -/
theorem writePoly_wrote (s : State) (d : PReg) (r : List Byte) (hr : r.length ≤ 256) :
    s.WrotePoly (writePoly s d r).succeed d r := by
  have hlen : ((s.plen.set d.val (BitVec.ofNat 9 r.length)).get d).toNat = r.length := by
    simp [Vector.get_eq_getElem]
    omega
  refine ⟨rfl, List.ext_getElem ?_ fun i h1 h2 => ?_, fun a ha => ?_⟩
  · rw [State.poly_length]
    exact hlen
  · simp only [State.poly, List.getElem_map, List.getElem_range]
    exact State.byteAt_setBytes_at s r h2 (writable_pcoef d (by omega))
  · exact State.byteAt_setBytes_other s r ha

theorem stripZeros_eq (z : Nat) (c : Byte) (q : List Byte) (hc : c ≠ 0) :
    stripZeros (List.replicate z 0 ++ c :: q) = c :: q := by
  have h0 : c ≠ 0#8 := hc
  induction z with
  | zero => simp [stripZeros, h0]
  | succ z ih => simpa [stripZeros, List.replicate_succ] using ih

theorem stripZeros_replicate (z : Nat) : stripZeros (List.replicate z 0) = [] := by
  induction z with
  | zero => rfl
  | succ z ih => simp [stripZeros]

/-- Every sequence is zeros followed by its stripped form. -/
theorem stripZeros_split (p : List Byte) : ∃ z, p = List.replicate z 0 ++ stripZeros p := by
  induction p with
  | nil => exact ⟨0, rfl⟩
  | cons c rest ih =>
    by_cases h : c = 0
    · obtain ⟨z, hz⟩ := ih
      refine ⟨z + 1, ?_⟩
      have hs : stripZeros (c :: rest) = stripZeros rest := by simp [stripZeros, h]
      rw [hs, List.replicate_succ, List.cons_append, ← hz, h]
    · have h0 : c ≠ 0#8 := h
      exact ⟨0, by simp [stripZeros, h0]⟩

/-- The logarithms of a sequence without zero coefficients. -/
theorem glogs_ok {p : List Byte} (h : ∀ c ∈ p, c ≠ 0) : glogs p = .ok (p.map fun c => (logRom c.toNat).toNat) := by
  induction p with
  | nil => rfl
  | cons c rest ih =>
    have hc : c.toNat ≠ 0 := fun h0 => h c List.mem_cons_self (BitVec.eq_of_toNat_eq (by simpa using h0))
    have hlt := c.isLt
    have hg : glog c.toNat = .ok (logRom c.toNat).toNat := by
      rw [glog, if_neg (by omega)]
    rw [glogs, hg, ih fun x hx => h x (List.mem_cons_of_mem _ hx)]
    rfl

/-- A zero coefficient has no logarithm (`40_gf.md` R134). -/
theorem glogs_error {p : List Byte} (h : 0 ∈ p) : glogs p = .error .domainLog := by
  induction p with
  | nil => simp at h
  | cons c rest ih =>
    by_cases hc : c = 0
    · subst hc
      rfl
    · have h0 : c.toNat ≠ 0 := fun h0 => hc (BitVec.eq_of_toNat_eq (by simpa using h0))
      have hlt := c.isLt
      have hg : glog c.toNat = .ok (logRom c.toNat).toNat := by
        rw [glog, if_neg (by omega)]
      have hr : 0 ∈ rest := by
        rcases List.mem_cons.1 h with h | h
        · exact absurd h.symm hc
        · exact h
      rw [glogs, hg, ih hr]

end Sys2Proof.Machine
end

