-- ==== Sys2Proof/Tests/Slice0.lean ====
section
/-! SUPPORT. Tests. Expected results come from the spec: the worked examples of its rules and `95_test_vectors.md`, or a
word written out by hand from `30_encoding.md`. The witnesses at the end meet the hypotheses of the statements. -/

namespace Sys2Proof.Machine.Tests

/-! ## Helpers -/

/-- The state a command leaves. -/
def after (i : Instr) (s : State) : State :=
  match exec i s with
  | .next t => t
  | .fault _ | .refused _ => s

/-- The state a step leaves. -/
def afterStep (s : State) : State :=
  match step s with
  | .next t => t
  | .fault _ | .refused _ => s

/-- Reset, with a polynomial in P0 and one in P1. -/
def polys (p q : List Byte) : State := writePoly (writePoly State.reset 0 p) 1 q

/-- Reset, with one descriptor of mode `mode` over `data`. -/
def segment (mode : Byte) (data : List Nat) : State :=
  { (State.reset.setBytes 0x002000 [0, 0, BitVec.ofNat 8 data.length, 0, mode, 0, 0, 0]).setBytes 0x004000
      (data.map (BitVec.ofNat 8)) with nseg := 1 }

/-- "DUNCAN", "duncan", "01234567", 17 digits, 20 times "x". -/
def duncan : List Nat := [0x44, 0x55, 0x4E, 0x43, 0x41, 0x4E]
def duncanLower : List Nat := [0x64, 0x75, 0x6E, 0x63, 0x61, 0x6E]
def digits8 : List Nat := [0x30, 0x31, 0x32, 0x33, 0x34, 0x35, 0x36, 0x37]
def digits17 : List Nat := [0x31, 0x32, 0x33, 0x34, 0x35, 0x36, 0x37, 0x38, 0x39, 0x30, 0x31, 0x32, 0x33, 0x34, 0x35, 0x36, 0x37]
def twentyX : List Nat := List.replicate 20 0x78

/-- The data codewords of "HELLO WORLD" at 1-M (V-RS-1). -/
def helloData : List Byte := [32, 91, 11, 120, 209, 114, 220, 77, 67, 64, 236, 17, 236, 17, 236, 17]

/-- Reset, with those in the bit buffer, for version 1 and level M. -/
def hello : State :=
  { State.reset.setBytes 0x005000 helloData with bitLen := 128, resVersion := 1, cfgLevel := 0 }

/-- The codewords of "HELLO WORLD" at 1-M (`44_codeword.md` R206). -/
def helloCodewords : List Byte := helloData ++ [196, 35, 39, 119, 235, 215, 231, 226, 93, 23]

/-- The test trial of V-MX-5. -/
def trialGrid5 : Grid :=
  [ [2, 2, 2, 2, 2, 2, 2, 1, 1, 1, 2, 1, 2, 1, 2, 2, 2, 2, 2, 2, 2]
  , [2, 1, 1, 1, 1, 1, 2, 1, 1, 2, 2, 1, 1, 1, 2, 1, 1, 1, 1, 1, 2]
  , [2, 1, 2, 2, 2, 1, 2, 1, 1, 1, 2, 1, 2, 1, 2, 1, 2, 2, 2, 1, 2]
  , [2, 1, 2, 2, 2, 1, 2, 1, 1, 1, 2, 1, 2, 1, 2, 1, 2, 2, 2, 1, 2]
  , [2, 1, 2, 2, 2, 1, 2, 1, 1, 1, 2, 2, 2, 1, 2, 1, 2, 2, 2, 1, 2]
  , [2, 1, 1, 1, 1, 1, 2, 1, 1, 2, 2, 2, 1, 1, 2, 1, 1, 1, 1, 1, 2]
  , [2, 2, 2, 2, 2, 2, 2, 1, 2, 1, 2, 1, 2, 1, 2, 2, 2, 2, 2, 2, 2]
  , [1, 1, 1, 1, 1, 1, 1, 1, 1, 1, 1, 1, 1, 1, 1, 1, 1, 1, 1, 1, 1]
  , [1, 1, 1, 1, 1, 1, 2, 1, 1, 2, 1, 1, 2, 1, 1, 1, 1, 1, 1, 1, 1]
  , [1, 2, 2, 2, 2, 1, 1, 1, 2, 1, 1, 2, 1, 1, 1, 1, 2, 1, 1, 1, 2]
  , [1, 1, 1, 2, 2, 2, 2, 2, 2, 2, 1, 2, 1, 1, 2, 1, 2, 2, 1, 1, 1]
  , [2, 2, 2, 2, 1, 2, 1, 2, 2, 1, 1, 2, 2, 2, 1, 2, 1, 2, 2, 2, 1]
  , [1, 2, 1, 1, 2, 2, 2, 2, 1, 2, 1, 2, 1, 1, 2, 2, 2, 1, 2, 1, 2]
  , [1, 1, 1, 1, 1, 1, 1, 1, 1, 1, 2, 1, 1, 1, 2, 1, 1, 1, 2, 1, 2]
  , [2, 2, 2, 2, 2, 2, 2, 1, 1, 1, 1, 1, 2, 1, 1, 2, 1, 2, 2, 1, 1]
  , [2, 1, 1, 1, 1, 1, 2, 1, 1, 2, 2, 1, 1, 1, 2, 2, 1, 2, 1, 1, 1]
  , [2, 1, 2, 2, 2, 1, 2, 1, 1, 2, 1, 1, 2, 1, 2, 2, 2, 2, 2, 2, 2]
  , [2, 1, 2, 2, 2, 1, 2, 1, 1, 1, 2, 2, 1, 2, 1, 2, 1, 1, 1, 2, 1]
  , [2, 1, 2, 2, 2, 1, 2, 1, 1, 2, 2, 2, 1, 2, 2, 2, 1, 2, 1, 1, 2]
  , [2, 1, 1, 1, 1, 1, 2, 1, 1, 1, 1, 2, 2, 2, 1, 1, 1, 2, 1, 2, 2]
  , [2, 2, 2, 2, 2, 2, 2, 1, 1, 2, 1, 2, 1, 2, 2, 2, 1, 1, 1, 1, 2] ]

/-! ## Well-formedness: an ill-formed term for each check -/

theorem test_wf_polyNorm : Instr.wf (.polyNorm 0 65536) = false ∧ Instr.wf (.polyNorm 0 65535) = true := by decide
theorem test_wf_polyGen : Instr.wf (.polyGen 3 65536) = false ∧ Instr.wf (.polyGen 3 65535) = true := by decide
theorem test_wf_segClassify : Instr.wf (.segClassify 16) = false ∧ Instr.wf (.segClassify 15) = true := by decide
theorem test_wf_segCost : Instr.wf (.segCost 16) = false ∧ Instr.wf (.segCost 15) = true := by decide
theorem test_wf_segWrite : Instr.wf (.segWrite 16) = false ∧ Instr.wf (.segWrite 15) = true := by decide
theorem test_wf_bbPut : Instr.wf (.bbPut 65536) = false ∧ Instr.wf (.bbPut 65535) = true := by decide
theorem test_wf_bbEom : Instr.wf (.bbEom 65536) = false ∧ Instr.wf (.bbEom 65535) = true := by decide
theorem test_wf_bbPad : Instr.wf (.bbPad 65536) = false ∧ Instr.wf (.bbPad 65535) = true := by decide
theorem test_wf_mxTrial : Instr.wf (.mxTrial 16 true) = false ∧ Instr.wf (.mxTrial 15 false) = true := by decide
theorem test_wf_mxScore : Instr.wf (.mxScore 16) = false ∧ Instr.wf (.mxScore 15) = true := by decide
theorem test_wf_mxCommit : Instr.wf (.mxCommit 16 false) = false ∧ Instr.wf (.mxCommit 15 true) = true := by decide

/-! ## Decoding: words written out from `30_encoding.md` R101-R104, R109 -/

theorem test_decode_system : decode 0x00000000 = .ok .nop ∧ decode 0x00000050 = .ok .verSelect ∧
    decode 0x00000051 = .ok .encode := by decide
theorem test_decode_gf : decode 0x00000001 = .ok .gfLog ∧ decode 0x00000002 = .ok .gfExp := by decide
theorem test_decode_poly : decode 0x12340310 = .ok (.polyNorm 3 0x1234) ∧ decode 0x00001211 = .ok (.polyMul 2 0 1) ∧
    decode 0x00002C12 = .ok (.polyMod 0 3 2) ∧ decode 0x000A0113 = .ok (.polyGen 1 10) := by decide
theorem test_decode_segment : decode 0x000F0020 = .ok (.segClassify 15) ∧ decode 0x00030021 = .ok (.segCost 3) ∧
    decode 0x00080022 = .ok (.segWrite 8) := by decide
theorem test_decode_bitBuffer : decode 0x00000028 = .ok .bbClear ∧ decode 0x00040029 = .ok (.bbPut 4) ∧
    decode 0x8001002A = .ok (.bbEom 0x8001) ∧ decode 0x0048002B = .ok (.bbPad 72) := by decide
theorem test_decode_codeword : decode 0x00000030 = .ok .ecInfo ∧ decode 0x00000031 = .ok .rsAssemble := by decide
theorem test_decode_matrix : decode 0x00000040 = .ok .mxTemplate ∧ decode 0x01030041 = .ok (.mxTrial 3 true) ∧
    decode 0x00090041 = .ok (.mxTrial 9 false) ∧ decode 0x00070042 = .ok (.mxScore 7) ∧
    decode 0x00000043 = .ok .mxEval ∧ decode 0x00100044 = .ok (.mxCommit 0 true) ∧
    decode 0x00050044 = .ok (.mxCommit 5 false) ∧ decode 0x00000045 = .ok .mxRead := by decide
/-- Illegal words: unassigned opcodes and must-be-zero fields of every format (`30_encoding.md` R106). -/
theorem test_decode_illegal : decode 0x00000003 = .error (.unassignedOpcode 0x03) ∧
    decode 0x000000FF = .error (.unassignedOpcode 0xFF) ∧ decode 0x80000000 = .error (.mbzNotZero 0x00) ∧
    decode 0x00000129 = .error (.mbzNotZero 0x29) ∧ decode 0x00004011 = .error (.mbzNotZero 0x11) ∧
    decode 0x00010011 = .error (.fieldConstraint 0x11) ∧ decode 0x00000410 = .error (.fieldConstraint 0x10) ∧
    decode 0x00100020 = .error (.fieldConstraint 0x20) ∧ decode 0x02000041 = .error (.fieldConstraint 0x41) ∧
    decode 0x00200044 = .error (.fieldConstraint 0x44) := by decide
theorem test_decode_tableWord : decodeTableWord 32 0x01030041 = some (.mxTrial 3 true) ∧
    decodeTableWord 32 0x00000003 = none := by decide

/-! ## Commands -/

/-- `46_encoder.md` R280: STATUS = 0x00000002. -/
theorem test_nop : (after .nop (State.reset.withFetchWord 32 0)).statusWord = 0x00000002 := by decide

/-- `40_gf.md` R132: glog(29) = 8, glog(255) = 175. -/
theorem test_gfLog : (after .gfLog { State.reset with arg0 := 29 }).result = 8 ∧
    (after .gfLog { State.reset with arg0 := 255 }).result = 175 := by decide
theorem test_gfLog_zero : (after .gfLog State.reset).errCode = 0x34 := by decide

/-- `40_gf.md` R133: gexp(-1) = 142, gexp(2^31 - 1) = 204, gexp(-2^31) = 204. -/
theorem test_gfExp : (after .gfExp { State.reset with arg0 := 0xFFFFFFFF }).result = 142 := by decide
theorem test_gfExp_extremes : (after .gfExp { State.reset with arg0 := 0x7FFFFFFF }).result = 204 ∧
    (after .gfExp { State.reset with arg0 := 0x80000000 }).result = 204 := by decide

/-- `41_poly.md` R142. -/
theorem test_polyNorm : (after (.polyNorm 0 2) (polys [0, 32, 91] [])).poly 0 = [32, 91, 0, 0] := by decide
theorem test_polyNorm_zero : (after (.polyNorm 0 0) (polys [0, 0, 0] [])).poly 0 = [0] ∧
    (after (.polyNorm 0 3) (polys [0, 0, 0] [])).poly 0 = [0, 0, 0] := by decide

/-- `41_poly.md` R143, with the destination a source. -/
theorem test_polyMul : (after (.polyMul 1 0 1) (polys [1, 1] [1, 2])).poly 1 = [1, 3, 2] := by decide
theorem test_polyMul_zero : (after (.polyMul 2 0 1) (polys [1, 0] [1, 2])).errCode = 0x34 := by decide

/-- `41_poly.md` R144. -/
theorem test_polyMod : (after (.polyMod 2 0 1) (polys [1, 0, 0] [1, 1])).poly 2 = [1] := by decide
theorem test_polyMod_equal : (after (.polyMod 2 0 1) (polys [7, 9] [7, 9])).poly 2 = [0] := by decide

/-- `41_poly.md` R145. -/
theorem test_polyGen : (after (.polyGen 1 7) State.reset).poly 1 = [1, 127, 122, 154, 164, 11, 68, 117] := by decide
theorem test_polyGen_bound : (after (.polyGen 1 256) State.reset).errCode = 0x40 := by decide

/-- `42_segment.md` R165. -/
theorem test_segClassify : (after (.segClassify 0) (segment 0 duncan)).result = 2 ∧
    (after (.segClassify 0) (segment 0 duncanLower)).result = 4 := by decide
theorem test_segClassify_unknown : (after (.segClassify 0) (segment 3 duncan)).errCode = 0x32 := by decide

/-- `42_segment.md` R166: 46 bits for "DUNCAN" at version 1, 14 for an empty numeric segment. -/
theorem test_segCost : (after (.segCost 0) { segment 0 duncan with arg0 := 1 }).result = 46 := by decide
theorem test_segCost_empty : (after (.segCost 0) { segment 0 [] with arg0 := 1 }).result = 14 := by decide

set_option maxRecDepth 20000 in
/-- `42_segment.md` R168: 0001 0000001000 0000001100 0101011001 1000011. -/
theorem test_segWrite :
    let t := after (.segWrite 0) { segment 1 digits8 with resVersion := 1 }
    t.bitLen = 41 ∧ (List.range 41).map t.bbBit =
      [false, false, false, true] ++ [false, false, false, false, false, false, true, false, false, false] ++
      [false, false, false, false, false, false, true, true, false, false] ++
      [false, true, false, true, false, true, true, false, false, true] ++
      [true, false, false, false, false, true, true] := by decide
theorem test_segWrite_version : (after (.segWrite 0) (segment 1 digits8)).errCode = 0x33 := by decide

set_option maxRecDepth 20000 in
/-- `43_bitbuffer.md` R180, R181: 0x2 in 4 bits, then 0x5B in 9. -/
theorem test_bbPut :
    let t := after (.bbPut 9) { after (.bbPut 4) { State.reset with arg0 := 0x2 } with arg0 := 0x5B }
    t.bitLen = 13 ∧ t.byteAt 0x005000 = 0x22 ∧ t.byteAt 0x005001 = 0xD8 ∧
      (after .bbClear t).bitLen = 0 ∧ (after .bbClear t).byteAt 0x005001 = 0x00 := by decide
theorem test_bbPut_wide : (after (.bbPut 33) State.reset).errCode = 0x45 := by decide

/-- `43_bitbuffer.md` R183: 46 of 72 gives 50; 69 of 72 appends nothing. -/
theorem test_bbEom : (after (.bbEom 72) { State.reset with bitLen := 46 }).bitLen = 50 ∧
    (after (.bbEom 72) { State.reset with bitLen := 69 }).bitLen = 69 := by decide

set_option maxRecDepth 20000 in
/-- `43_bitbuffer.md` R184: 50 of 72 gives 56 zero-filled, then 0xEC and 0x11. -/
theorem test_bbPad :
    let t := after (.bbPad 72) { State.reset with bitLen := 50 }
    t.bitLen = 72 ∧ t.byteAt 0x005007 = 0xEC ∧ t.byteAt 0x005008 = 0x11 := by decide
theorem test_bbPad_full : (after (.bbPad 65535) State.reset).errCode = 0x41 := by decide

/-- `44_codeword.md` R204: version 5 at level Q. -/
theorem test_ecInfo : (after .ecInfo { State.reset with arg0 := 5, cfgLevel := 3 }).ecInfoWord = 0x00861204 ∧
    (after .ecInfo { State.reset with arg0 := 5, cfgLevel := 3 }).result = 496 := by decide
theorem test_ecInfo_range : (after .ecInfo { State.reset with arg0 := 41 }).errCode = 0x33 := by decide

set_option maxRecDepth 20000 in
/-- `44_codeword.md` R206: "HELLO WORLD" at 1-M. -/
theorem test_rsAssemble : (List.range 26).map (after .rsAssemble hello).codeword = helloCodewords := by decide
theorem test_rsAssemble_unpadded : (after .rsAssemble { hello with bitLen := 127 }).errCode = 0x44 ∧
    (after .rsAssemble { hello with bitLen := 129 }).errCode = 0x21 := by decide

set_option maxRecDepth 100000 in
/-- `45_matrix.md` R234: the template for version 1 leaves 239 UNSET cells. -/
theorem test_mxTemplate : ((template Params.default 1).map fun row => row.count 0x00).sum = 239 := by decide
theorem test_mxTemplate_range : (after .mxTemplate State.reset).errCode = 0x33 := by decide

set_option maxRecDepth 100000 in
/-- V-MX-5: the test trial of "HELLO WORLD" at 1-M with mask 0. -/
theorem test_mxTrial :
    trialGrid Params.default 1 0 (helloCodewords.flatMap fun b => bitsOf b.toNat 8) 0 true (template Params.default 1) = trialGrid5 := by decide
theorem test_mxTrial_mask : (after (.mxTrial 8 true) { State.reset with tplVer := 1 }).errCode = 0x31 := by decide

set_option maxRecDepth 100000 in
/-- V-MX-5: that trial scores 400. -/
theorem test_mxScore : score 21 trialGrid5 = 400 := by decide

/-- `45_matrix.md` R261, V-MX-6: the least index of the minimum, the first of equals. -/
theorem test_mxEval_best : bestMask #v[400, 522, 486, 559, 531, 534, 604, 482] = 0 ∧
    bestMask #v[9, 7, 8, 7, 9, 9, 9, 9] = 1 := by decide
theorem test_mxEval_noTemplate : (after .mxEval State.reset).errCode = 0x43 := by decide

/-- `45_matrix.md` R266: USE_BEST takes BEST and ignores MASK. -/
theorem test_mxCommit : (after (.mxCommit 9 true) { State.reset with tplVer := 1, best := 5 }).resMask = 5 ∧
    (after (.mxCommit 9 false) { State.reset with tplVer := 1, best := 5 }).errCode = 0x31 := by decide

/-- `45_matrix.md` R268: a DARK cell, and coordinates outside version 1's 21 modules. -/
theorem test_mxRead :
    (after .mxRead { State.reset.setBytes 0x018000 [2] with finalVer := 1 }).result = 1 := by decide
theorem test_mxRead_range : (after .mxRead { State.reset with finalVer := 1, arg0 := 0xFFFFFFFF }).errCode = 0x30 ∧
    (after .mxRead { State.reset with finalVer := 1, arg0 := 21 }).errCode = 0x30 ∧
    (after .mxRead State.reset).errCode = 0x30 := by decide

set_option maxRecDepth 20000 in
/-- `46_encoder.md` R283: 17 digits at level H fit version 1 (71 < 72). -/
theorem test_verSelect : (after .verSelect (segment 0 digits17)).resWord = 0x00000101 := by decide
theorem test_verSelect_shape : (after .verSelect State.reset).errCode = 0x10 := by decide

set_option maxRecDepth 20000 in
/-- `46_encoder.md` R284: version 1 is too small for 20 bytes; BITLEN then holds 176. -/
theorem test_encode_overflow :
    (after .encode { segment 0 twentyX with cfgVersion := 1 }).errCode = 0x21 ∧
      (after .encode { segment 0 twentyX with cfgVersion := 1 }).bitLen = 176 := by decide
theorem test_encode_shape : (after .encode { State.reset with nseg := 17 }).errCode = 0x10 := by decide

/-! ## The parameters -/

/-- `45_matrix.md` R240: a core built with TRIAL_DARK_MODULE = DARK leaves the fixed module of a test trial DARK, at the
default it is LIGHT. -/
theorem test_params_darkModule :
    (placeDarkModule { Params.default with trialDarkModule := true } 21 true (blankGrid 21)).get 13 8 = 0x02 ∧
      (placeDarkModule Params.default 21 true (blankGrid 21)).get 13 8 = 0x01 := by decide

/-- `20_memory.md` R71: QRC_BASE is added to every address. -/
theorem test_params_base :
    let s := State.resetWith { Params.default with qrcBase := 0x100000 }
    s.readResponse .word 0x100000 = { data := 0x51524307, error := false } ∧
      s.readResponse .word 0x000000 = { data := 0, error := true } := by decide

set_option maxRecDepth 20000 in
/-- `43_bitbuffer.md` R185 (a): BB_CLEAR zeroes all of BB, the last byte too where BB_MAX_BITS ends inside it. -/
theorem test_params_oddBuffer :
    let s := after (.bbPut 12) { State.resetWith { Params.default with bbMaxBits := 12 } with arg0 := 0xFFF }
    s.byteAt 0x005001 = 0xF0 ∧ (after .bbClear s).byteAt 0x005001 = 0x00 := by decide

/-- `45_matrix.md` R238: division by x + 1 leaves the parity, by x^2 + x + 1 of x^3 + x the rest x + 1. -/
theorem test_params_generator : gf2Rem 3 15 0x7 = 1 ∧ gf2Rem 7 15 0xA = 3 := ⟨by decide, by decide⟩

/-- `41_poly.md` R145: a smaller POLY_MAX bounds the result. -/
theorem test_params_polyMax :
    (after (.polyGen 1 7) (State.resetWith { Params.default with polyMax := 7 })).errCode = 0x40 := by decide

/-! ## The step and the bus -/

/-- `70_reset_and_hazards.md` R350: the word placed is the next step's command. -/
theorem test_step_runs : (afterStep (State.reset.withFetchWord 32 0x02)).result = 1 := by decide

/-- `10_state.md` R27, R25: an illegal word records its opcode and ERR_ILLEGAL. -/
theorem test_step_illegal : (afterStep (State.reset.withFetchWord 32 0x12345603)).statusWord = 0x00030106 := by decide

/-- `20_memory.md` R75: bytes at rising addresses from bits [7:0] up. -/
theorem test_bus_byteOrder :
    (State.reset.hostWrite .word 0x004000 0x44332211).byteAt 0x004001 = 0x22 ∧
      (State.reset.hostWrite .word 0x004000 0x44332211).readResponse .half 0x004002 =
        { data := 0x4433, error := false } := by decide

/-- `70_reset_and_hazards.md` R351: a write to DATA while BUSY stores nothing and sets COLL. -/
theorem test_bus_busyWrite :
    ((State.reset.withFetchWord 32 0).hostWrite .byte 0x004000 0x55).coll = true ∧
      ((State.reset.withFetchWord 32 0).hostWrite .byte 0x004000 0x55).mem = [] := by decide

/-- `10_state.md` section 2: the fields of STATUS and RES. -/
theorem test_bus_fields :
    (({ State.reset with done := true, err := true, coll := true, errCode := 0x34, lastOp := 0x01 } : State).readResponse
        .word 0x000008).data = 0x0001340E ∧
      (({ State.reset with resVersion := 40, resMode := 4, resMask := 7 } : State).readResponse .word 0x00002C).data =
        0x00070428 := by decide

/-- `30_encoding.md` R107: WAIT stays while BUSY. -/
theorem test_bus_wait :
    (afterStep { State.reset.withFetchWord 32 0 with
        inFlight := some { word := 0, left := 1 }, hostQueue := [.wait] }).hostQueue = [.wait] ∧
      (afterStep { State.reset with hostQueue := [.wait] }).hostQueue = [] := by decide

/-- `20_memory.md` R72: a byte access to a register is a bus error. -/
theorem test_bus_narrowRegister : State.reset.readResponse .byte 0x000000 = { data := 0, error := true } := by decide

/-! ## Witnesses: states and operands that meet the hypotheses of the statements, at the ends of their ranges -/

/-- Reset, with a command in flight. -/
def busy (w : Word) (left : Nat) : State := { State.reset with inFlight := some { word := w, left := left } }

/-- Reset, with descriptor 15 at the end of DATA: OFFSET 4096, COUNT 0, AUTO. -/
def lastDescriptor : State := State.reset.setBytes 0x002078 [0, 16, 0, 0, 0]

/-- Reset, with one BYTE segment of all of DATA. -/
def wholeData : State := { State.reset.setBytes 0x002000 [0, 0, 0, 16, 4] with nseg := 1 }

/-- The same at a version and a MAXVER. -/
def wholeDataAt (version maxVer : BitVec 6) : State := { wholeData with cfgVersion := version, cfgMaxVer := maxVer }

/-- Reset, with TPL holding the template for version `v`. -/
def templated (v : Nat) : State := { State.reset.storeTpl (template Params.default v) with tplVer := BitVec.ofNat 6 v }

-- Deciding `SegmentIs` needs instances nested deeper than the default.
set_option synthInstance.maxSize 2000

set_option maxRecDepth 20000 in
theorem default_fits : Params.default.Fits := by decide

theorem polys_poly_one (p q : List Byte) (hq : q.length ≤ 256) : (polys p q).poly 1 = q :=
  (writePoly_wrote (writePoly State.reset 0 p) 1 q hq).2.1

theorem polys_poly_zero (p q : List Byte) (hp : p.length ≤ 256) : (polys p q).poly 0 = p := by
  have h0 := (writePoly_wrote State.reset 0 p hp).2.1
  have hb : ∀ i, i < p.length → (polys p q).byteAt (0x003000 + i) = (writePoly State.reset 0 p).byteAt (0x003000 + i) :=
    fun i hi => State.byteAt_setBytes_other _ q (.inl (by simp only [pcoefBase, Window.base, Fin.val_one]; omega))
  have hlen : ((polys p q).plen.get 0).toNat = p.length := by
    simp [polys, Vector.get_eq_getElem]
    omega
  have hlen0 : ((writePoly State.reset 0 p).plen.get 0).toNat = p.length := by
    simp [Vector.get_eq_getElem]
    omega
  refine Eq.trans ?_ h0
  show (List.range ((polys p q).plen.get 0).toNat).map _ =
    (List.range ((writePoly State.reset 0 p).plen.get 0).toNat).map _
  rw [hlen, hlen0]
  exact List.map_congr_left fun i hi => hb i (List.mem_range.1 hi)

theorem templated_held {v : Nat} (hv : v ≤ 40) : (templated v).TemplateHeld := by
  have hver : (templated v).tplVer.toNat = v := by
    show v % 64 = v
    omega
  intro _
  rw [hver]
  exact ⟨hv, fun r c hr hc =>
    State.cell_of_matrixMem (s := State.reset) (.inl rfl) rfl (template_isSquare Params.default v) (by simp only [moduleCount]; omega)
      hr hc⟩

theorem reset_bbBit {k : Nat} (h : k < 32768) : State.reset.bbBit k = false := by
  have hw : windowOf (0x005000 + k / 8) = some .bb := windowOf_eq_of_lt (by omega)
  have hb : State.reset.byteAt (0x005000 + k / 8) = 0 := by
    simp [State.byteAt, byteOf, Memory.get, Memory.writable, Memory.unlisted, hw, State.reset, State.resetWith, Memory.lookup]
  rw [State.bbBit, hb]
  exact BitVec.getLsbD_zero

theorem busy_statusConsistent (w : Word) (left : Nat) : (busy w left).StatusConsistent :=
  ⟨fun _ => rfl, fun h => Bool.noConfusion h, fun _ => ⟨rfl, rfl⟩⟩

theorem test_witness_StepRunsDecodedCommand :
    (busy 0x51 0).inFlight = some { word := 0x51, left := 0 } ∧ decode 0x51 = .ok .encode ∧
      decodeTableWord 32 0x45 = some .mxRead ∧ State.reset.inFlight = none ∧ State.reset.hostQueue = [] ∧
      ({ State.reset with hostQueue := [.read .word 0] } : State).hostQueue = [.read .word 0] ∧
      ({ State.reset with hostQueue := [.write .word 12 0] } : State).hostQueue = [.write .word 12 0] ∧
      ({ State.reset with hostQueue := [.wait] } : State).hostQueue = [.wait] ∧
      (busy 0x51 1).inFlight = some { word := 0x51, left := 0 + 1 } ∧
      ({ busy 0x51 1 with hostQueue := [.wait] } : State).hostQueue = [.wait] :=
  ⟨rfl, rfl, rfl, rfl, rfl, rfl, rfl, rfl, rfl, rfl⟩

theorem test_witness_OnlyTableWordsDecode :
    (busy 0x00000003 0).inFlight = some { word := 0x00000003, left := 0 } ∧
      ∀ row ∈ opcodeRows, (0x00000003 : Word) &&& row.2 ≠ row.1 :=
  ⟨rfl, by simp [opcodeRows]⟩

theorem test_witness_DecodeOfEncode : (Instr.polyGen 3 65535).wf = true ∧ (Instr.mxTrial 15 true).wf = true := by decide

theorem test_witness_EncodeOfDecode : decode 0xFFFF0313 = .ok (.polyGen 3 65535) := by decide

theorem test_witness_ConstantTables :
    (∃ a ∈ (Params.default.ecGroups 5 3).head?, ∃ b ∈ (Params.default.ecGroups 5 3).tail, b.total = a.total + 1) ∧ 1 ∈ List.range' 1 40 ∧
      40 ∈ List.range' 1 40 := by decide

/-- Words for `IllegalWhere`, at the lowest and the highest must-be-zero bit of their formats. -/
theorem test_witness_IllegalWhere :
    (∀ op ∈ ([0x00, 0x01, 0x02, 0x28, 0x30, 0x31, 0x40, 0x45] : List Byte), ∀ high ∈ ([0x100, 0x80000000] : List Word),
      (op.setWidth 32 ||| high).extractLsb' 0 8 = op ∧ (op.setWidth 32 ||| high) &&& 0xFFFFFF00 ≠ 0) ∧
    (∀ op ∈ ([0x29, 0x2A, 0x2B] : List Byte), ∀ high ∈ ([0x100, 0x8000] : List Word),
      (op.setWidth 32 ||| high).extractLsb' 0 8 = op ∧ (op.setWidth 32 ||| high) &&& 0x0000FF00 ≠ 0) ∧
    ∀ w, (busy w 0).inFlight = some { word := w, left := 0 } := by
  refine ⟨fun op hop high hh => ?_, fun op hop high hh => ?_, fun _ => rfl⟩ <;>
    simp only [List.mem_cons, List.not_mem_nil, or_false] at hop hh
  · rcases hop with rfl | rfl | rfl | rfl | rfl | rfl | rfl | rfl <;> rcases hh with rfl | rfl <;> decide
  · rcases hop with rfl | rfl | rfl <;> rcases hh with rfl | rfl <;> decide

theorem test_witness_GfLogResult :
    ({ State.reset with arg0 := 1 } : State).arg0.toNat = 1 ∧ ({ State.reset with arg0 := 255 } : State).arg0.toNat = 255 ∧
      State.reset.arg0.toNat = 0 ∧ 255 < ({ State.reset with arg0 := 256 } : State).arg0.toNat := by decide

theorem test_witness_GfExpResult :
    ({ State.reset with arg0 := 0xFFFFFFFF } : State).arg0.toInt = 255 * -1 + (254 : Nat) ∧
      State.reset.arg0.toInt = 255 * 0 + (0 : Nat) := by decide

theorem test_witness_PolyNormResult :
    (polys [0, 0, 5] []).poly 0 = List.replicate 2 0 ++ 5 :: [] ∧ (5 : Byte) ≠ 0 ∧
      ((polys [0, 0, 5] []).plen.get 0).toNat ≤ (polys [0, 0, 5] []).params.polyMax ∧
      ([] : List Byte).length + 1 + 255 ≤ (polys [0, 0, 5] []).params.polyMax ∧
      (polys [0] []).poly 0 = List.replicate (0 + 1) 0 ∧
      ((polys [0] []).plen.get 0).toNat ≤ (polys [0] []).params.polyMax ∧ 256 ≤ (polys [0] []).params.polyMax ∧
      (polys [0, 0, 5] []).params.Fits ∧ (polys [0] []).params.Fits := by
  refine ⟨?_, ?_, ?_, ?_, ?_, ?_, ?_, default_fits, default_fits⟩ <;> decide

theorem test_witness_PolyMulResult :
    let s := polys [1] (List.replicate 256 1)
    s.params.Fits ∧ 1 ≤ (s.plen.get 0).toNat ∧ 1 ≤ (s.plen.get 1).toNat ∧
      (s.plen.get 0).toNat + (s.plen.get 1).toNat ≤ s.params.polyMax + 1 ∧
      (∀ c ∈ s.poly 0, c ≠ 0) ∧ (∀ c ∈ s.poly 1, c ≠ 0) := by
  simp only
  have h0 := polys_poly_zero [1] (List.replicate 256 1) (by decide)
  have h1 := polys_poly_one [1] (List.replicate 256 1) (by rw [List.length_replicate])
  refine ⟨default_fits, by rw [← State.poly_length, h0]; decide, by rw [← State.poly_length, h1, List.length_replicate]; decide, ?_,
    by rw [h0]; decide, fun c hc => ?_⟩
  · rw [← State.poly_length, ← State.poly_length, h0, h1, List.length_replicate]
    decide
  · rw [h1] at hc
    rw [(List.mem_replicate.1 hc).2]
    decide

theorem test_witness_PolyModResult :
    (∀ s ∈ [polys [0] [0, 0], polys [0] [5], polys [1, 0, 0] [1, 1]],
      s.params = Params.default ∧ 1 ≤ (s.plen.get 0).toNat ∧ (s.plen.get 0).toNat ≤ s.params.polyMax ∧
        1 ≤ (s.plen.get 1).toNat ∧ (s.plen.get 1).toNat ≤ s.params.polyMax) ∧ Params.default.Fits ∧
      ((polys [0] [0, 0]).plen.get 0).toNat < ((polys [0] [0, 0]).plen.get 1).toNat ∧ (polys [0] [5]).poly 0 = [0] ∧
      ((polys [1, 0, 0] [1, 1]).poly 0).headD 0 ≠ 0 ∧ ∀ c ∈ (polys [1, 0, 0] [1, 1]).poly 1, c ≠ 0 := by
  refine ⟨fun s hs => ?_, default_fits, ?_, ?_, ?_, ?_⟩
  · simp only [List.mem_cons, List.not_mem_nil, or_false] at hs
    rcases hs with rfl | rfl | rfl <;> exact ⟨rfl, by decide⟩
  all_goals decide

/-- The last N with a polynomial, and the first without; a core with a smaller POLY_MAX. -/
theorem test_witness_PolyGenResult :
    State.reset.params.Fits ∧ 255 + 1 ≤ State.reset.params.polyMax ∧ State.reset.params.polyMax < 256 + 1 ∧
      ({ Params.default with polyMax := 8 } : Params).Fits :=
  ⟨default_fits, by decide, by decide, by
    refine ⟨by decide, default_fits.2⟩⟩

/-- At the default POLY_MAX, 256. -/
theorem test_witness_PolyErrors :
    State.reset.params.polyMax = 256 ∧ (State.reset.plen.get 0).toNat = 0 ∧
      256 < (({ State.reset with plen := #v[257, 0, 0, 0] } : State).plen.get 0).toNat ∧
      (polys [7] []).poly 0 = List.replicate 0 0 ++ 7 :: [] ∧ 256 < ([] : List Byte).length + 1 + 256 ∧
      ((polys [0] []).poly 0 = List.replicate (0 + 1) 0 ∧ ((polys [0] []).plen.get 0).toNat = 1 ∧ 256 < 257) ∧
      ((polys [7] []).plen.get 0).toNat = 1 ∧ ((polys [7] []).plen.get 1).toNat = 0 ∧
      256 < (({ State.reset with plen := #v[1, 257, 0, 0] } : State).plen.get 1).toNat ∧
      257 < (({ State.reset with plen := #v[2, 256, 0, 0] } : State).plen.get 0).toNat +
        (({ State.reset with plen := #v[2, 256, 0, 0] } : State).plen.get 1).toNat ∧
      0 ∈ (polys [0] [1]).poly 0 ∧ 0 ∈ (polys [1] [0]).poly 1 ∧
      ((polys [0, 1] [1]).poly 0 ≠ [0] ∧ ((polys [0, 1] [1]).poly 0).headD 0 = 0) ∧
      ((polys [1, 1] [1, 0]).poly 0 ≠ [0] ∧ 0 ∈ (polys [1, 1] [1, 0]).poly 1 ∧
        ((polys [1, 1] [1, 0]).plen.get 1).toNat ≤ ((polys [1, 1] [1, 0]).plen.get 0).toNat) := by decide

/-- One segment of every kind that resolves, and descriptor 15 at the end of DATA. -/
theorem test_witness_SegClassifyAndCost :
    (segment 0 digits8).SegmentIs 0 1 ∧ (segment 0 duncan).SegmentIs 0 2 ∧ (segment 0 duncanLower).SegmentIs 0 4 ∧
      (segment 1 digits8).SegmentIs 0 1 ∧ (segment 2 duncan).SegmentIs 0 2 ∧ (segment 4 duncan).SegmentIs 0 4 ∧
      lastDescriptor.SegmentIs 15 1 ∧ ({ lastDescriptor with arg0 := 40 } : State).arg0.toNat ≤ 40 ∧
      1 ≤ ({ lastDescriptor with arg0 := 1 } : State).arg0.toNat := by
  refine ⟨?_, ?_, ?_, ?_, ?_, ?_, ?_, ?_, ?_⟩ <;> set_option maxRecDepth 20000 in decide

theorem test_witness_SegWriteResult :
    let s : State := { lastDescriptor with resVersion := 1, bitLen := 32754 }
    s.params.Fits ∧ s.SegmentIs 15 1 ∧ 1 ≤ s.resVersion.toNat ∧ s.resVersion.toNat ≤ 40 ∧
      s.bitLen.toNat + segmentCost s.params 1 (s.segCount 15) s.resVersion.toNat = s.params.bbMaxBits := by
  refine ⟨default_fits, ?_, ?_, ?_, ?_⟩ <;> set_option maxRecDepth 20000 in decide

theorem test_witness_CostAndWriteAgree :
    let s : State := { segment 0 duncan with resVersion := 1 }
    let cost := after (.segCost 0) { s with arg0 := BitVec.ofNat 32 1 }
    let written := after (.segWrite 0) s
    s.params.Fits ∧ s.resVersion.toNat = 1 ∧ s.err = false ∧ cost.err = false ∧ written.err = false := by
  refine ⟨default_fits, ?_⟩
  set_option maxRecDepth 20000 in decide

theorem test_witness_SegErrors :
    (segment 3 duncan).segMode 0 ∉ [0, 1, 2, 4] ∧ (segment 15 duncan).segMode 0 ∉ [0, 1, 2, 4] ∧
      (State.reset.setBytes 0x002078 [0, 16, 1, 0, 4]).params.dataMax <
        (State.reset.setBytes 0x002078 [0, 16, 1, 0, 4]).segOffset 15 +
        (State.reset.setBytes 0x002078 [0, 16, 1, 0, 4]).segCount 15 ∧
      (State.reset.setBytes 0x002078 [0, 16, 1, 0, 4]).segMode 15 ∈ [0, 1, 2, 4] ∧
      ((segment 1 duncan).segMode 0 = 1 ∧ ¬AllDigits ((segment 1 duncan).segPayload 0)) ∧
      ((segment 2 duncanLower).segMode 0 = 2 ∧ ¬AllAlphanumeric ((segment 2 duncanLower).segPayload 0)) ∧
      (segment 0 digits8).SegmentIs 0 1 ∧ (segment 0 digits8).arg0.toNat = 0 ∧
      40 < ({ segment 0 digits8 with arg0 := 41 } : State).arg0.toNat ∧ (segment 0 digits8).resVersion.toNat = 0 ∧
      40 < ({ segment 0 digits8 with resVersion := 41 } : State).resVersion.toNat ∧
      (let s : State := { lastDescriptor with bitLen := 32755, resVersion := 1 }
       s.SegmentIs 15 1 ∧ s.params.bbMaxBits < s.bitLen.toNat + segmentCost s.params 1 (s.segCount 15) 1) := by
  refine ⟨?_, ?_, ?_, ?_, ⟨?_, ?_⟩, ⟨?_, ?_⟩, ?_, ?_, ?_, ?_, ?_, ?_⟩ <;> set_option maxRecDepth 20000 in decide

theorem test_witness_BbPutResult :
    State.reset.params.Fits ∧
      ({ State.reset with bitLen := 32736 } : State).bitLen.toNat + 32 ≤ State.reset.params.bbMaxBits ∧
      State.reset.params.bbMaxBits < ({ State.reset with bitLen := 32737 } : State).bitLen.toNat + 32 :=
  ⟨default_fits, by decide, by decide⟩

theorem test_witness_BbClearResult : State.reset.params.Fits ∧ (State.reset.params.bbMaxBits + 7) / 8 = 4096 :=
  ⟨default_fits, by decide⟩

theorem test_witness_BbEomResult :
    State.reset.params.Fits ∧ State.reset.bitLen.toNat + 4 ≤ 4 ∧
      ({ State.reset with bitLen := 32764 } : State).bitLen.toNat + 4 ≤ State.reset.params.bbMaxBits ∧
      State.reset.params.bbMaxBits < ({ State.reset with bitLen := 32765 } : State).bitLen.toNat + 4 ∧
      3 < State.reset.bitLen.toNat + 4 := ⟨default_fits, by decide⟩

/-- TARGET 0 on an empty buffer, TARGET 72 on 50 bits, a full buffer of 32768 bits, and one bit more. -/
theorem test_witness_BbPadResult :
    State.reset.params.Fits ∧ State.reset.params.bbMaxBits = 32768 ∧
    (0 % 8 = 0 ∧ State.reset.bitLen.toNat ≤ 0 ∧ 0 < State.reset.bitLen.toNat + 8 ∧ 0 ≤ 0 + 8 * 0) ∧
      (56 % 8 = 0 ∧ ({ State.reset with bitLen := 50 } : State).bitLen.toNat ≤ 56 ∧
        56 < ({ State.reset with bitLen := 50 } : State).bitLen.toNat + 8 ∧ 72 ≤ 56 + 8 * 2 ∧ 56 + 8 * 2 < 72 + 8) ∧
      (32768 ≤ 0 + 8 * 4096 ∧ 0 + 8 * 4096 < 32768 + 8 ∧ 0 + 8 * 4096 ≤ 32768) ∧
      (32769 ≤ 0 + 8 * 4097 ∧ 0 + 8 * 4097 < 32769 + 8 ∧ 32768 < 0 + 8 * 4097) := ⟨default_fits, by decide⟩

theorem test_witness_TerminatorEquivalence :
    let s : State := { State.reset with bitLen := 5 }
    s.params.Fits ∧ 8 % 8 = 0 ∧ 8 ≤ s.params.bbMaxBits ∧ s.bitLen.toNat ≤ 8 ∧ ∃ e p, exec (.bbEom 8) s = .next e ∧
      exec (.bbPut (min 4 (8 - s.bitLen.toNat))) { s with arg0 := 0 } = .next p :=
  ⟨default_fits, by decide, by decide, by decide, _, _, rfl, rfl⟩

theorem test_witness_EcInfoResult :
    ({ State.reset with arg0 := 1 } : State).arg0.toNat = 1 ∧ ({ State.reset with arg0 := 40 } : State).arg0.toNat = 40 ∧
      State.reset.arg0.toNat = 0 ∧ 40 < ({ State.reset with arg0 := 41 } : State).arg0.toNat := by decide

theorem test_witness_RsAssembleResult :
    (hello.params = Params.default ∧ hello.resVersion.toNat = 1 ∧
      hello.bitLen.toNat = 8 * dataCount (hello.params.ecGroups 1 hello.cfgLevel)) ∧
      let s : State := { State.reset with resVersion := 40, cfgLevel := 1, bitLen := 23648 }
      s.params = Params.default ∧ s.resVersion.toNat = 40 ∧
        s.bitLen.toNat = 8 * dataCount (s.params.ecGroups 40 s.cfgLevel) :=
  ⟨⟨rfl, by decide⟩, rfl, by decide⟩

theorem test_witness_RsAssembleErrors :
    State.reset.resVersion.toNat = 0 ∧ 40 < ({ State.reset with resVersion := 41 } : State).resVersion.toNat ∧
      hello.resVersion.toNat = 1 ∧
      8 * dataCount (hello.params.ecGroups 1 hello.cfgLevel) < ({ hello with bitLen := hello.bitLen + 1 } : State).bitLen.toNat ∧
      ({ hello with bitLen := hello.bitLen - 1 } : State).bitLen.toNat < 8 * dataCount (hello.params.ecGroups 1 hello.cfgLevel) := by decide

theorem test_witness_InterleaveOrder :
    let ds : List (List Byte) := [[1], [2, 3]]
    let es : List (List Byte) := [[4], [5]]
    ds.length = 1 + 1 ∧ es.length = 1 + 1 ∧ (∀ j, j < 1 → (ds.getD j []).length = 1) ∧
      (∀ j, 1 ≤ j → j < 1 + 1 → (ds.getD j []).length = 1 + 1) ∧ (∀ j, j < 1 + 1 → (es.getD j []).length = 1) := by
  refine ⟨rfl, rfl, by decide, fun j h1 h2 => ?_, by decide⟩
  obtain rfl : j = 1 := by omega
  rfl

theorem test_witness_BlocksVanishAtRoots : ErrorCodewordsOf [1] 1 [1] :=
  ⟨[1, 1], [1, 0], [1], by decide,
    .iterate _ [1] _ (by decide) (.inl ⟨1, by decide, 1, [], rfl, by decide⟩) (.exit _ (by decide)),
    ⟨0, by decide, by decide⟩, by decide, rfl⟩

theorem test_witness_MxTemplateResult :
    State.reset.params = Params.default ∧ ({ State.reset with resVersion := 1 } : State).resVersion.toNat = 1 ∧
      ({ State.reset with resVersion := 40 } : State).resVersion.toNat = 40 ∧ State.reset.resVersion.toNat = 0 ∧
      40 < ({ State.reset with resVersion := 41 } : State).resVersion.toNat := ⟨rfl, by decide⟩

/-- The first and last position of a version, masks 0 and 7, and a grid of one cell. -/
theorem test_witness_DataMapping :
    (0 < 2 * 1 + 8 ∧ 87 < 2 * 40 + 8 ∧ 176 < 4 * 40 + 17 ∧ 1 < 2) ∧ 7 < 8 ∧ Grid.isSquare 1 [[cellUnset]] ∧ [(0, 0)].Nodup ∧ (∀ p ∈ [(0, 0)], p.1 < 1 ∧ p.2 < 1) ∧
      ([(0, 0)].filter fun p => Grid.get [[cellUnset]] p.1 p.2 = cellUnset)[0]? = some (0, 0) ∧
      (0, 0) ∉ ([] : List (Nat × Nat)) ∧ Grid.get [[cellDark]] 0 0 ≠ cellUnset :=
  ⟨by decide, by decide, ⟨rfl, by decide⟩, by decide, by decide, by decide, by decide, by decide⟩

/-- TPLVER 1 and 40, for MX_TRIAL, MX_SCORE, MX_EVAL and MX_COMMIT, and a cell of every kind in a trial for version 7:
format information, the fixed module, both version blocks, and a cell of none. -/
theorem test_witness_MxTrialResult :
    (infoCell Params.default 1 7 0 true 8 0 = some 0x01 ∧ infoCell Params.default 1 7 0 true 37 8 = some 0x01 ∧
      infoCell Params.default 1 7 0 true 0 36 = some 0x01 ∧ infoCell Params.default 1 7 0 true 36 5 = some 0x01 ∧
      infoCell Params.default 1 7 0 true 44 44 = none) ∧
    ({ State.reset with tplVer := 1 } : State).tplVer ≠ 0 ∧ ({ State.reset with tplVer := 40 } : State).tplVer ≠ 0 ∧
      ({ State.reset with tplVer := 40 } : State).tplVer.toNat ≤ 40 := by decide

theorem test_witness_MxScoreResult :
    ({ State.reset with tplVer := 40 } : State).tplVer ≠ 0 ∧ ({ State.reset with tplVer := 40 } : State).tplVer.toNat ≤ 40 ∧
      7 < 8 := by decide

theorem test_witness_MxEvalBest : ({ State.reset with tplVer := 63 } : State).tplVer ≠ 0 := by decide

theorem test_witness_EvalEqualsSequence :
    ∃ s t : State, s.tplVer ≠ 0 ∧ s.tplVer.toNat ≤ 40 ∧ exec .mxEval s = .next t :=
  ⟨{ State.reset with tplVer := 40 }, _, by decide, by decide, rfl⟩

theorem test_witness_MxCommitResult :
    7 = (if true then ({ State.reset with tplVer := 1, best := 7 } : State).best.toNat else 9) ∧
      7 = (if false then (0 : BitVec 3).toNat else 7) := by decide

theorem test_witness_CommittedSymbol :
    ∀ v ∈ [1, 40], (templated v).TemplateHeld ∧ (templated v).tplVer ≠ 0 ∧
      ∃ t, exec (.mxCommit 7 false) (templated v) = .next t := by
  intro v hv
  refine ⟨templated_held ?_, ?_, exec_next _ _⟩ <;> rcases List.mem_cons.1 hv with rfl | hv
  · decide
  · rw [List.mem_singleton.1 hv]
  · exact fun h => absurd (congrArg BitVec.toNat h) (by decide)
  · rw [List.mem_singleton.1 hv]
    exact fun h => absurd (congrArg BitVec.toNat h) (by decide)

theorem test_witness_MxReadResult :
    let s : State := { State.reset with finalVer := 1, arg0 := 20, arg1 := 20 }
    s.finalVer ≠ 0 ∧ s.arg0.toInt = (20 : Nat) ∧ s.arg1.toInt = (20 : Nat) ∧ 20 < 4 * s.finalVer.toNat + 17 ∧
      State.reset.finalVer = 0 ∧ ({ s with arg0 := 0xFFFFFFFF } : State).arg0.toInt < 0 ∧
      (4 * s.finalVer.toNat + 17 : Int) ≤ ({ s with arg0 := 21 } : State).arg0.toInt ∧
      ({ s with arg1 := 0x80000000 } : State).arg1.toInt < 0 ∧
      (4 * s.finalVer.toNat + 17 : Int) ≤ ({ s with arg1 := 21 } : State).arg1.toInt := by decide

theorem test_witness_MxErrors :
    State.reset.tplVer = 0 ∧ ({ State.reset with tplVer := 1 } : State).tplVer ≠ 0 ∧ 7 < 8 := by decide

/-- Segments that resolve, an explicit version at MAXVER, a search that fits version 1 by one bit, and searches that
fit nothing: MAXVER 0, and MAXVER 63 over all of DATA. -/
theorem test_witness_VerSelectResult :
    let s := segment 0 digits17
    (1 ≤ s.nseg.toNat ∧ s.nseg.toNat ≤ s.params.segMax ∧ (∀ i, i < s.nseg.toNat → s.SegmentIs i 1)) ∧
      (({ s with cfgVersion := 40 } : State).cfgVersion.toNat ≤ s.cfgMaxVer.toNat) ∧
      (s.cfgVersion = 0 ∧ sumBelow s.nseg.toNat (fun i => segmentCost s.params 1 (s.segCount i) 1) <
        8 * dataCount (s.params.ecGroups 1 s.cfgLevel)) ∧
      (wholeData.SegmentIs 0 4 ∧ ∀ u ∈ List.range' 1 40,
        ¬sumBelow wholeData.nseg.toNat (fun i => segmentCost wholeData.params 4 (wholeData.segCount i) u) <
          8 * dataCount (wholeData.params.ecGroups u wholeData.cfgLevel)) := by
  have hw : wholeData.SegmentIs 0 4 := ⟨by decide, .inr (.inr (.inr (.inr (.inr ⟨by decide, rfl⟩))))⟩
  refine ⟨?_, by decide, ?_, hw, ?_⟩
  · set_option maxRecDepth 20000 in decide
  · set_option maxRecDepth 20000 in decide
  · set_option maxRecDepth 20000 in decide

theorem test_witness_ValidationErrors :
    State.reset.nseg.toNat = 0 ∧ State.reset.params.segMax < ({ State.reset with nseg := 17 } : State).nseg.toNat ∧
      (segment 3 duncan).segMode 0 ∉ [0, 1, 2, 4] ∧ 0 < (segment 3 duncan).nseg.toNat ∧
      (let s : State := { State.reset.setBytes 0x002000 [0, 16, 1, 0, 4] with nseg := 1 }
       s.segMode 0 ∈ [0, 1, 2, 4] ∧ s.params.dataMax < s.segOffset 0 + s.segCount 0) ∧
      ((segment 1 duncan).segMode 0 = 1 ∧ ¬AllDigits ((segment 1 duncan).segPayload 0) ∧
        (segment 1 duncan).segOffset 0 + (segment 1 duncan).segCount 0 ≤ (segment 1 duncan).params.dataMax) ∧
      (let s : State := { segment 0 digits8 with cfgVersion := 41 }
       s.SegmentIs 0 1 ∧ s.cfgVersion ≠ 0 ∧ s.cfgMaxVer.toNat < s.cfgVersion.toNat) ∧
      (let s : State := { segment 0 digits8 with cfgVersion := 41, cfgMaxVer := 41 }
       s.SegmentIs 0 1 ∧ s.cfgVersion.toNat ≤ s.cfgMaxVer.toNat ∧ 40 < s.cfgVersion.toNat) := by
  refine ⟨?_, ?_, ?_, ?_, ⟨?_, ?_⟩, ⟨?_, ?_, ?_⟩, ⟨?_, ?_, ?_⟩, ⟨?_, ?_, ?_⟩⟩ <;> set_option maxRecDepth 20000 in decide

/-- The explicit version 1 and the search, both with 71 of 72 bits needed. -/
theorem test_witness_EncodeSucceeds :
    let s := segment 0 digits17
    let e : State := { s with cfgVersion := 1 }
    (s.params = Params.default ∧ e.params = Params.default) ∧
      (1 ≤ s.nseg.toNat ∧ s.nseg.toNat ≤ 16 ∧ (∀ i, i < s.nseg.toNat → s.SegmentIs i 1) ∧ 1 ≤ s.cfgMaxVer.toNat ∧
        s.cfgVersion = 0 ∧ sumBelow s.nseg.toNat (fun i => segmentCost s.params 1 (s.segCount i) 1) <
          8 * dataCount (s.params.ecGroups 1 s.cfgLevel) ∧ ∀ u, 1 ≤ u → u < 1 → False) ∧
      ((∀ i, i < e.nseg.toNat → e.SegmentIs i 1) ∧ e.cfgVersion.toNat = 1 ∧
        sumBelow e.nseg.toNat (fun i => segmentCost e.params 1 (e.segCount i) 1) ≤
          8 * dataCount (e.params.ecGroups 1 e.cfgLevel)) := by
  have hu : ∀ u, 1 ≤ u → u < 1 → False := fun u h1 h2 => by omega
  refine ⟨⟨rfl, rfl⟩, ⟨by decide, by decide, ?_, by decide, by decide, ?_, hu⟩, ?_, by decide, ?_⟩
  · set_option maxRecDepth 20000 in decide
  · set_option maxRecDepth 20000 in decide
  · set_option maxRecDepth 20000 in decide
  · set_option maxRecDepth 20000 in decide

/-- Searches that fit no version, with MAXVER 0 and 63; an explicit version 1 and 40 whose first segment passes the end
of BB; and an explicit version 1 too small for the data. -/
theorem test_witness_EncodeOverflow :
    (∀ maxVer ∈ [0, 63], let s := wholeDataAt 0 maxVer
      1 ≤ s.nseg.toNat ∧ s.nseg.toNat ≤ s.params.segMax ∧ s.SegmentIs 0 4 ∧ s.cfgVersion = 0 ∧
        ∀ v ∈ List.range' 1 40, 8 * dataCount (s.params.ecGroups v s.cfgLevel) ≤
          sumBelow s.nseg.toNat (fun i => segmentCost s.params 4 (s.segCount i) v)) ∧
    (∀ version ∈ [1, 40], let s := wholeDataAt version 40
      let cost := fun i => segmentCost s.params 4 (s.segCount i) s.cfgVersion.toNat
      s.params.Fits ∧ s.SegmentIs 0 4 ∧ 1 ≤ s.cfgVersion.toNat ∧ s.cfgVersion.toNat ≤ 40 ∧
        s.cfgVersion.toNat ≤ s.cfgMaxVer.toNat ∧ 0 < s.nseg.toNat ∧ sumBelow 0 cost ≤ s.params.bbMaxBits ∧
        s.params.bbMaxBits < sumBelow (0 + 1) cost) ∧
    (let s : State := { segment 0 twentyX with cfgVersion := 1 }
     let needs := sumBelow s.nseg.toNat (fun i => segmentCost s.params 4 (s.segCount i) s.cfgVersion.toNat)
     s.params.Fits ∧ (1 ≤ s.nseg.toNat ∧ s.nseg.toNat ≤ s.params.segMax ∧ (∀ i, i < s.nseg.toNat → s.SegmentIs i 4) ∧
        1 ≤ s.cfgVersion.toNat ∧ s.cfgVersion.toNat ≤ s.cfgMaxVer.toNat) ∧
       8 * dataCount (s.params.ecGroups s.cfgVersion.toNat s.cfgLevel) < needs ∧
         8 * ((needs + 7) / 8) ≤ s.params.bbMaxBits) := by
  have h : wholeData.SegmentIs 0 4 := ⟨by decide, .inr (.inr (.inr (.inr (.inr ⟨by decide, rfl⟩))))⟩
  have hw : ∀ v m, (wholeDataAt v m).SegmentIs 0 4 := fun _ _ => h
  refine ⟨fun m hm => ?_, fun v hv => ?_, default_fits, ?_, ?_⟩
  · simp only [List.mem_cons, List.not_mem_nil, or_false] at hm
    rcases hm with rfl | rfl <;> refine ⟨by decide, by decide, hw _ _, rfl, ?_⟩ <;>
      set_option maxRecDepth 20000 in decide
  · simp only [List.mem_cons, List.not_mem_nil, or_false] at hv
    rcases hv with rfl | rfl <;>
      exact ⟨default_fits, hw _ _, by decide, by decide, by decide, by decide, by decide, by decide⟩
  · set_option maxRecDepth 20000 in decide
  · set_option maxRecDepth 20000 in decide

theorem test_witness_EncodeIsDeterministic :
    ∃ s₁ s₂ t₁ t₂ : State, s₁ ≠ s₂ ∧ s₁.params.Fits ∧ s₁.sameEncoderInputs s₂ ∧ s₁.err = false ∧ s₂.err = false ∧
      exec .encode s₁ = .next t₁ ∧ exec .encode s₂ = .next t₂ :=
  ⟨segment 0 duncan, { segment 0 duncan with bitLen := 9 }, _, _, fun h => absurd (congrArg State.bitLen h) (by decide),
    default_fits, ⟨rfl, rfl, rfl, rfl, rfl, fun _ _ => rfl, fun _ _ => rfl⟩, rfl, rfl, rfl, rfl⟩

theorem test_witness_ErrorsArePrecise :
    State.reset.params.Fits ∧ State.reset.err = false ∧ (∃ t, exec .gfLog State.reset = .next t) ∧
      ∃ t, exec .encode State.reset = .next t ∧ t.err = true :=
  ⟨default_fits, rfl, ⟨_, rfl⟩, after .encode State.reset, rfl, by decide⟩

/-- A command that answers a next state, for the whole-machine rules about every command. -/
theorem test_witness_OnlySevenWriteResult : ∃ t, exec .mxRead State.reset = .next t := ⟨_, rfl⟩

theorem test_witness_CommandsKeepHostState :
    State.reset.params.Fits ∧ ∃ t, exec (.polyNorm 3 0) State.reset = .next t := ⟨default_fits, _, rfl⟩

theorem test_witness_RegisterWriters : ∃ t, Instr.rsAssemble ≠ .encode ∧ exec .rsAssemble State.reset = .next t :=
  ⟨_, by decide, rfl⟩

theorem test_witness_CommandsIgnoreHostSide : ∃ t, exec (.segWrite 15) State.reset = .next t := ⟨_, rfl⟩

/-- One access for each way of being rejected. -/
theorem test_witness_BusErrors :
    (0x4001 : BitVec 24).toNat % Width.half.bytes ≠ 0 ∧ (0xFC : BitVec 24).toNat < 0x100 ∧
      0x70 ≤ (0x70 : BitVec 24).toNat ∧ Width.byte ≠ Width.word ∧ (0x100 : BitVec 24).toNat < 0x1000 ∧
      (0x1FFF : BitVec 24).toNat < 0x2000 ∧ (0x2FFF : BitVec 24).toNat < 0x3000 ∧
      (0x3400 : BitVec 24).toNat < 0x4000 ∧ (0x7000 : BitVec 24).toNat < 0x10000 ∧
      0x60000 ≤ (0xFFFFFF : BitVec 24).toNat := by decide

theorem test_witness_ByteOrder :
    State.reset.busy = false ∧ (0x5FFC : BitVec 24).toNat % Width.word.bytes = 0 ∧ 3 < Width.word.bytes ∧
      (State.reset.readResponse .word 0x5FFC).error = false ∧ (0x207C : BitVec 24).toNat % Width.word.bytes = 0 ∧
      (0x33FF : BitVec 24).toNat % Width.byte.bytes = 0 ∧ (0x4FFE : BitVec 24).toNat % Width.half.bytes = 0 := by decide

theorem test_witness_IgnoredAndDroppedWrites :
    (0x11FC : BitVec 24).toNat % Width.word.bytes = 0 ∧ (0x5000 : BitVec 24).toNat % Width.byte.bytes = 0 ∧
      (0x5FFFC : BitVec 24).toNat % Width.word.bytes = 0 ∧ (busy 0 0).busy = true ∧
      (0x06C : BitVec 24).toNat ∈ [0x00C, 0x010, 0x014, 0x018, 0x028, 0x060, 0x064, 0x068, 0x06C] ∧
      (0x207E : BitVec 24).toNat % Width.half.bytes = 0 := by decide

theorem test_witness_RegisterWrites :
    State.reset.busy = false ∧ (0x7FFFFFFF : Word).getLsbD 31 = false ∧ (0x80000000 : Word).getLsbD 31 = true := by decide

theorem test_witness_RegisterAndWindowReads :
    State.reset.busy = false ∧ (busy 0 0).busy = true ∧ (0x06C % 4 = 0 ∧ 0x06C < 0x70) ∧
      0x11FF < (0x1200 : BitVec 24).toNat ∧ (0x207F : BitVec 24).toNat < 0x2080 ∧
      (0x33FF : BitVec 24).toNat < 0x3400 ∧ (0x5FFFF : BitVec 24).toNat < 0x60000 ∧
      (0x02C, 0xFFF8F0C0) ∈ ([(0x004, 0xFFFFFFFC), (0x02C, 0xFFF8F0C0)] : List (Nat × Word)) := by decide

theorem test_witness_InterruptLine :
    (busy 0 0).StatusConsistent ∧ (busy 0 0).busy = true ∧
      ({ busy 0 0 with ieDone := true } : State).StatusConsistent ∧ ∃ t, exec .nop { busy 0 0 with ieDone := true } = .next t :=
  ⟨busy_statusConsistent 0 0, rfl, busy_statusConsistent 0 0, _, rfl⟩

theorem test_witness_StepKeepsMemoryCanonical : State.reset.MemoryCanonical ∧ ∃ t, step State.reset = .next t :=
  ⟨Memory.wf_nil, step_next _⟩

theorem test_witness_StepKeepsStatusConsistent : (busy 0x01 0).StatusConsistent ∧ ∃ t, step (busy 0x01 0) = .next t :=
  ⟨busy_statusConsistent _ _, step_next _⟩

theorem test_witness_StepKeepsBuffer :
    (busy 0x00040029 0).RegistersBounded ∧ (busy 0x00040029 0).BufferTailZero ∧ ∃ t, step (busy 0x00040029 0) = .next t :=
  ⟨⟨default_fits, by decide⟩, fun _ _ h => reset_bbBit h, step_next _⟩

theorem test_witness_StepKeepsMatrices :
    (templated 1).params.Fits ∧ (templated 1).TemplateHeld ∧ (templated 1).FinalComplete ∧
      ∃ t, step (templated 1) = .next t :=
  ⟨default_fits, templated_held (by decide), fun h => absurd rfl h, step_next _⟩

theorem test_witness_AcceptedCommandCompletes :
    let s : State := { busy 0x30 2 with hostQueue := [.write .word 0x004 0x7FFFFFFF, .wait, .write .word 0x004 0x80000000] }
    s.inFlight = some { word := 0x30, left := 2 } ∧ s.done = false ∧ s.err = false ∧ s.errCode = 0 ∧
      ∀ a ∈ s.hostQueue.take 2, a.softResets s.params.qrcBase = false := by decide

end Sys2Proof.Machine.Tests
end

/-! What a command can do, once for every command: its rule, and the states a rule that succeeds can leave. -/

namespace Sys2Proof.Machine

/-! ## The lengths of polynomial results -/

theorem stripZeros_length_le (p : List Byte) : (stripZeros p).length ≤ p.length :=
  (List.dropWhile_suffix _).length_le

theorem normBody_length (p : List Byte) (shift : Nat) :
    (normBody p shift).length = max 1 ((stripZeros p).length + shift) := by
  simp only [normBody, List.length_append, List.length_replicate]
  split
  · simp only [List.length_singleton]; omega
  · simp only [List.length_append, List.length_replicate]; omega

theorem xorAlign_length (p q : List Byte) : (xorAlign p q).length = max p.length q.length := by
  induction p, q using xorAlign.induct with
  | case1 q => simp [xorAlign]
  | case2 p hp => simp [xorAlign]
  | case3 c p d q ih => simp only [xorAlign, List.length_cons, ih]; omega

theorem crossTerms_length_le (las : List Nat) {lbs : List Nat} (h : lbs.length ≠ 0) :
    (crossTerms las lbs).length ≤ las.length + lbs.length - 1 := by
  induction las with
  | nil => simp [crossTerms]
  | cons la rest ih =>
    simp only [crossTerms, xorAlign_length, List.length_map, List.length_cons]
    omega

theorem glogs_length {p : List Byte} {ks : List Nat} (h : glogs p = .ok ks) : ks.length = p.length := by
  by_cases h0 : 0 ∈ p
  · simp [glogs_error h0] at h
  · rw [glogs_ok fun c hc => ne_of_mem_of_not_mem hc h0, Except.ok.injEq] at h
    rw [← h, List.length_map]

/-- A product is no longer than the product of its factors' degrees allows. -/
theorem polyProduct_length_le {a b r : List Byte} (hb : b.length ≠ 0) (h : polyProduct a b = .ok r) :
    r.length ≤ max 1 (a.length + b.length - 1) := by
  simp only [polyProduct] at h
  split at h
  · rename_i las lbs hla hlb
    have hr : normBody (crossTerms las lbs) 0 = r := by simpa using h
    have h1 := stripZeros_length_le (crossTerms las lbs)
    have h2 := crossTerms_length_le las (lbs := lbs) (by rw [glogs_length hlb]; exact hb)
    rw [glogs_length hla, glogs_length hlb] at h2
    rw [← hr, normBody_length]
    omega
  · cases h
  · cases h

/-- An iteration of the modulo loop leaves a dividend that is not empty and no longer than before. -/
theorem polyModStep_length {s dv t : List Byte} (hs : s.length ≠ 0) (hl : dv.length ≤ s.length)
    (h : polyModStep s dv = .ok t) : t.length ≠ 0 ∧ t.length ≤ s.length := by
  simp only [polyModStep] at h
  split at h
  · rename_i ls lds _ hd
    rw [Except.ok.injEq] at h
    have h1 := stripZeros_length_le (xorAlign s (lds.map fun (ld : Nat) => gexp (ld + (ls - lds.headD 0 : Int))))
    rw [xorAlign_length, List.length_map, glogs_length hd] at h1
    rw [← h, normBody_length]
    omega
  · cases h
  · cases h

theorem polyModLoop_length_le {dv : List Byte} (fuel : Nat) {s r : List Byte} (hs : s.length ≠ 0)
    (h : polyModLoop fuel s dv = .ok r) : r.length ≤ s.length := by
  induction fuel generalizing s with
  | zero => simp only [polyModLoop, Except.ok.injEq] at h; rw [h]
  | succ fuel ih =>
    simp only [polyModLoop] at h
    split at h
    · rw [Except.ok.injEq] at h; rw [h]
    · rename_i hc
      split at h
      · cases h
      · rename_i t ht
        obtain ⟨h0, hle⟩ := polyModStep_length hs (by omega) ht
        exact (ih h0 h).trans hle

theorem generator_length_le (n : Nat) {g : List Byte} (h : generator n = .ok g) : g.length ≤ n + 1 := by
  induction n generalizing g with
  | zero => simp only [generator, Except.ok.injEq] at h; simp [← h]
  | succ n ih =>
    simp only [generator] at h
    split at h
    · cases h
    · rename_i g' hg
      have h1 := polyProduct_length_le (by simp) h
      have h2 := ih hg
      simp only [List.length_cons, List.length_nil] at h1
      omega

/-! ## The checks of the rules -/

theorem checkVersion_eq_ok {v : Nat} : checkVersion v = .ok () ↔ 1 ≤ v ∧ v ≤ 40 := by
  by_cases h : 1 ≤ v ∧ v ≤ Config.maxVersion
  · simp only [checkVersion, if_pos h, true_iff]; exact h
  · simp only [checkVersion, if_neg h, reduceCtorEq, false_iff]; exact h

theorem checkTrial_eq_ok {s : State} {m : Nat} : checkTrial s m = .ok () ↔ s.tplVer ≠ 0 ∧ m ≤ 7 := by
  simp only [checkTrial]
  split
  · simp [*]
  · split
    · simp only [reduceCtorEq, false_iff]; omega
    · simp only [true_iff]; exact ⟨‹_›, by omega⟩

theorem polyOperand_eq_ok {s : State} {k : PReg} {p : List Byte} (h : polyOperand s k = .ok p) :
    p.length ≠ 0 ∧ p.length ≤ s.params.polyMax := by
  rw [polyOperand_eq] at h
  split at h
  · cases h
  · split at h
    · cases h
    · rw [Except.ok.injEq] at h
      rw [← h, State.poly_length]
      omega

theorem norm_length_le {limit shift : Nat} {p r : List Byte} (h : norm limit p shift = .ok r) : r.length ≤ limit := by
  simp only [norm] at h
  split at h
  · cases h
  · split at h
    · cases h
    · rw [Except.ok.injEq] at h
      rw [← h, normBody_length]
      omega

theorem validate_version_le {s : State} {gs : List Segment} (h : validate s = .ok gs) :
    s.cfgVersion ≠ 0 → s.cfgVersion.toNat ≤ 40 := by
  simp only [validate] at h
  split at h
  · cases h
  · split at h
    · cases h
    · split at h
      · cases h
      · split at h
        · cases h
        · rename_i hv
          exact fun h0 => Nat.le_of_not_lt fun hlt => hv ⟨h0, hlt⟩

theorem searchVersions_le {p : Params} {gs : List Segment} {lvl : BitVec 2} {vs : List Nat} {v : Nat}
    (h : searchVersions p gs lvl vs = .ok v) : v ≤ 40 := by
  induction vs with
  | nil => cases h
  | cons x rest ih =>
    simp only [searchVersions] at h
    split at h
    · cases h
    · rename_i hx
      split at h
      · cases h
      · split at h
        · rw [Except.ok.injEq] at h
          exact h ▸ Nat.le_of_not_lt hx
        · exact ih h

theorem chooseVersion_le {s : State} {gs : List Segment} {v : Nat} (hv : validate s = .ok gs)
    (h : chooseVersion s gs = .ok v) : v ≤ 40 := by
  simp only [chooseVersion] at h
  split at h
  · exact searchVersions_le h
  · rename_i h0
    rw [Except.ok.injEq] at h
    rw [← h]
    exact validate_version_le hv h0

theorem primaryMode_cases (gs : List Segment) :
    primaryMode gs = 0 ∨ primaryMode gs = 1 ∨ primaryMode gs = 2 ∨ primaryMode gs = 4 := by
  cases gs with
  | nil => exact .inl rfl
  | cons g rest => cases hm : g.mode <;> simp [primaryMode, hm, Mode.code]

/-! ## Rules and their effects -/

/-- The rule of a command. ENCODE has no rule of its own: it runs those of `encodeSteps` (`46_encoder.md` R284). -/
def ruleOf : Instr → Rule
  | .nop => fun s => .ok s
  | .gfLog => ruleGfLog
  | .gfExp => ruleGfExp
  | .polyNorm d shift => rulePolyNorm d shift
  | .polyMul d a b => rulePolyMul d a b
  | .polyMod d a b => rulePolyMod d a b
  | .polyGen d n => rulePolyGen d n
  | .segClassify seg => ruleSegClassify seg
  | .segCost seg => ruleSegCost seg
  | .segWrite seg => ruleSegWrite seg
  | .bbClear => ruleBbClear
  | .bbPut width => ruleBbPut width
  | .bbEom max => ruleBbEom max
  | .bbPad target => ruleBbPad target
  | .ecInfo => ruleEcInfo
  | .rsAssemble => ruleRsAssemble
  | .mxTemplate => ruleMxTemplate
  | .mxTrial mask test => ruleMxTrial mask test
  | .mxScore mask => ruleMxScore mask
  | .mxEval => ruleMxEval
  | .mxCommit mask useBest => ruleMxCommit mask useBest
  | .mxRead => ruleMxRead
  | .verSelect => ruleVerSelect
  | .encode => fun _ => .error .illegal

/-- Every command but ENCODE is the completion of its rule. -/
theorem exec_eq_complete {i : Instr} (hi : i ≠ .encode) (s : State) : exec i s = complete s (ruleOf i) := by
  cases i with
  | encode => exact absurd rfl hi
  | _ => rfl

theorem exec_encode (s : State) : exec .encode s = completeSteps s (encodeSteps s.nseg.toNat) := rfl

/-- The commands that write RESULT and nothing else. -/
def writesResultOnly : Instr → Bool
  | .gfLog | .gfExp | .segClassify _ | .segCost _ | .mxRead => true
  | _ => false

/-- The polynomial register a command writes. -/
def polyDest : Instr → Option PReg
  | .polyNorm d _ | .polyMul d _ _ | .polyMod d _ _ | .polyGen d _ => some d
  | _ => none

/-- The commands that append bits to the bit buffer. -/
def appendsBits : Instr → Bool
  | .segWrite _ | .bbPut _ | .bbEom _ | .bbPad _ => true
  | _ => false

/-- What the rule of a command, where it succeeds, makes of a state. -/
inductive Effect (s : State) : Instr → State → Prop where
  | nop : Effect s .nop s
  | result {i : Instr} (hi : writesResultOnly i = true) (r : Word) : Effect s i { s with result := r }
  | poly {i : Instr} {d : PReg} (hi : polyDest i = some d) (r : List Byte) (hr : r.length ≤ s.params.polyMax) :
    Effect s i (writePoly s d r)
  | append {i : Instr} (hi : appendsBits i = true) (bits : List Bool)
    (hb : bits = [] ∨ s.bitLen.toNat + bits.length ≤ s.params.bbMaxBits) : Effect s i (s.putBits bits)
  | clear : Effect s .bbClear
      { s with mem := Memory.replace s.mem Window.bb.base s.params.bbBytes [], bitLen := 0 }
  | ecInfo (blocks : List Block) (r : Word) : Effect s .ecInfo { writeEcInfo s blocks with result := r }
  | assemble (blocks : List Block) (bytes : List Byte)
    (hb : ecLookup s.params s.resVersion.toNat s.cfgLevel = .ok blocks) : Effect s .rsAssemble
      { writeEcInfo (s.storeCw bytes) blocks with cwLen := BitVec.ofNat 16 (totalCodewords blocks) }
  | template (hv : s.resVersion.toNat ≤ 40) : Effect s .mxTemplate
      { s.storeTpl (template s.params s.resVersion.toNat) with tplVer := s.resVersion }
  | trial (mask : Nat) (test : Bool) (hm : mask ≤ 7) :
    Effect s (.mxTrial mask test) (s.storeTrial mask (trial s mask test))
  | score (mask : Nat) (p : Word) :
    Effect s (.mxScore mask) { s with pen := s.pen.setIfInBounds mask p, result := p }
  | eval (ht : s.tplVer ≠ 0) (b : BitVec 3) : Effect s .mxEval { (List.range 8).foldl (evalLane s) s with best := b }
  | commit (mask : Nat) (useBest : Bool) (m : Nat) (ht : s.tplVer ≠ 0) : Effect s (.mxCommit mask useBest)
      { s.storeFinal (Machine.trial s m false) with finalVer := s.tplVer, resMask := BitVec.ofNat 3 m }
  | select (v mode : Nat) (hv : v ≤ 40) (hm : mode = 0 ∨ mode = 1 ∨ mode = 2 ∨ mode = 4) :
    Effect s .verSelect { s with resVersion := BitVec.ofNat 6 v, resMode := BitVec.ofNat 4 mode }

/-! ### What each rule leaves -/

section
variable {s u : State}

theorem ruleGfLog_effect (h : ruleGfLog s = .ok u) : Effect s .gfLog u := by
  simp only [ruleGfLog] at h
  split at h
  · cases h
  · cases h; exact .result rfl _

theorem rulePolyNorm_effect {d : PReg} {shift : Nat} (h : rulePolyNorm d shift s = .ok u) :
    Effect s (.polyNorm d shift) u := by
  simp only [rulePolyNorm] at h
  split at h
  · cases h
  · split at h
    · cases h
    · rename_i r hr
      cases h
      exact .poly rfl r (norm_length_le hr)

theorem rulePolyMul_effect {d a b : PReg} (h : rulePolyMul d a b s = .ok u) : Effect s (.polyMul d a b) u := by
  simp only [rulePolyMul] at h
  split at h
  · cases h
  · rename_i p hp
    split at h
    · cases h
    · rename_i q hq
      obtain ⟨hp0, hp⟩ := polyOperand_eq_ok hp
      obtain ⟨hq0, hq⟩ := polyOperand_eq_ok hq
      split at h
      · cases h
      · rename_i r hr
        simp only [polyMul] at hr
        split at hr
        · cases hr
        · have := polyProduct_length_le hq0 hr
          cases h
          exact .poly rfl r (by omega)

theorem rulePolyMod_effect {d a b : PReg} (h : rulePolyMod d a b s = .ok u) : Effect s (.polyMod d a b) u := by
  simp only [rulePolyMod] at h
  split at h
  · cases h
  · rename_i p hp
    obtain ⟨hp0, hp⟩ := polyOperand_eq_ok hp
    split at h
    · cases h
    · split at h
      · cases h
      · rename_i r hr
        cases h
        exact .poly rfl r ((polyModLoop_length_le _ hp0 hr).trans hp)

theorem rulePolyGen_effect {d : PReg} {n : Nat} (h : rulePolyGen d n s = .ok u) : Effect s (.polyGen d n) u := by
  simp only [rulePolyGen] at h
  split at h
  · cases h
  · split at h
    · cases h
    · rename_i g hg
      have := generator_length_le n hg
      cases h
      exact .poly rfl g (by omega)

theorem ruleSegClassify_effect {seg : Nat} (h : ruleSegClassify seg s = .ok u) : Effect s (.segClassify seg) u := by
  simp only [ruleSegClassify] at h
  split at h
  · cases h
  · cases h; exact .result rfl _

theorem ruleSegCost_effect {seg : Nat} (h : ruleSegCost seg s = .ok u) : Effect s (.segCost seg) u := by
  simp only [ruleSegCost] at h
  split at h
  · cases h
  · split at h
    · cases h
    · cases h; exact .result rfl _

theorem not_bbOverflows {s : State} {count : Nat} (h : ¬bbOverflows s count = true) :
    s.bitLen.toNat + count ≤ s.params.bbMaxBits := by
  simpa [bbOverflows] using h

theorem ruleSegWrite_effect {seg : Nat} (h : ruleSegWrite seg s = .ok u) : Effect s (.segWrite seg) u := by
  simp only [ruleSegWrite] at h
  split at h
  · cases h
  · split at h
    · cases h
    · split at h
      · cases h
      · rename_i hb
        cases h
        exact .append rfl _ (.inr (by rw [segmentBits_length]; exact not_bbOverflows hb))

theorem ruleBbPut_effect {width : Nat} (h : ruleBbPut width s = .ok u) : Effect s (.bbPut width) u := by
  simp only [ruleBbPut] at h
  split at h
  · cases h
  · split at h
    · cases h
    · rename_i hb
      cases h
      exact .append rfl _ (.inr (by rw [bitsOf_length]; exact not_bbOverflows hb))

theorem ruleBbEom_effect {max : Nat} (h : ruleBbEom max s = .ok u) : Effect s (.bbEom max) u := by
  simp only [ruleBbEom] at h
  split at h
  · split at h
    · cases h
    · rename_i hb
      cases h
      exact .append rfl _ (.inr (by rw [bitsOf_length]; exact not_bbOverflows hb))
  · cases h
    exact .append rfl [] (.inl rfl)

theorem padBits_length (count : Nat) : (padBits count).length = 8 * count := by
  simp [padBits, List.length_flatMap, Nat.mul_comm]

theorem ruleBbPad_effect {target : Nat} (h : ruleBbPad target s = .ok u) : Effect s (.bbPad target) u := by
  simp only [ruleBbPad] at h
  split at h
  · cases h
  · cases h
    rw [← State.putBits_append]
    refine .append rfl _ (.inr ?_)
    rw [List.length_append, List.length_replicate, padBits_length]
    have : s.bitLen.toNat ≤ alignUp8 s.bitLen.toNat := by simp only [alignUp8]; omega
    omega

theorem ruleEcInfo_effect (h : ruleEcInfo s = .ok u) : Effect s .ecInfo u := by
  simp only [ruleEcInfo] at h
  split at h
  · cases h
  · cases h; exact .ecInfo _ _

theorem ruleRsAssemble_effect (h : ruleRsAssemble s = .ok u) : Effect s .rsAssemble u := by
  simp only [ruleRsAssemble] at h
  split at h
  · cases h
  · rename_i blocks hb
    split at h
    · cases h
    · split at h
      · cases h
      · split at h
        · cases h
        · cases h; exact .assemble blocks _ hb

theorem ruleMxTemplate_effect (h : ruleMxTemplate s = .ok u) : Effect s .mxTemplate u := by
  simp only [ruleMxTemplate] at h
  split at h
  · cases h
  · rename_i hv
    cases h
    exact .template (checkVersion_eq_ok.1 hv).2

theorem ruleMxTrial_effect {mask : Nat} {test : Bool} (h : ruleMxTrial mask test s = .ok u) :
    Effect s (.mxTrial mask test) u := by
  simp only [ruleMxTrial] at h
  split at h
  · cases h
  · rename_i hc
    cases h
    exact .trial mask test (checkTrial_eq_ok.1 hc).2

theorem ruleMxScore_effect {mask : Nat} (h : ruleMxScore mask s = .ok u) : Effect s (.mxScore mask) u := by
  simp only [ruleMxScore] at h
  split at h
  · cases h
  · cases h; exact .score mask _

theorem ruleMxEval_effect (h : ruleMxEval s = .ok u) : Effect s .mxEval u := by
  simp only [ruleMxEval] at h
  split at h
  · cases h
  · cases h; exact .eval ‹_› _

theorem ruleMxCommit_effect {mask : Nat} {useBest : Bool} (h : ruleMxCommit mask useBest s = .ok u) :
    Effect s (.mxCommit mask useBest) u := by
  simp only [ruleMxCommit] at h
  split at h
  · cases h
  · rename_i hc
    cases h
    exact .commit mask useBest _ (checkTrial_eq_ok.1 hc).1

theorem ruleMxRead_effect (h : ruleMxRead s = .ok u) : Effect s .mxRead u := by
  simp only [ruleMxRead] at h
  generalize (if s.finalVer = 0 then (0 : Int) else _) = n at h
  split at h
  · cases h
  · cases h; exact .result rfl _

theorem ruleVerSelect_effect (h : ruleVerSelect s = .ok u) : Effect s .verSelect u := by
  simp only [ruleVerSelect] at h
  split at h
  · cases h
  · rename_i gs hg
    split at h
    · cases h
    · rename_i v hv
      cases h
      exact .select v _ (chooseVersion_le hg hv) (primaryMode_cases gs)

/-- A rule that succeeds has its command's effect. -/
theorem ruleOf_effect {i : Instr} (h : ruleOf i s = .ok u) : Effect s i u := by
  cases i with
  | nop => cases h; exact .nop
  | gfLog => exact ruleGfLog_effect h
  | gfExp => cases h; exact .result rfl _
  | polyNorm d shift => exact rulePolyNorm_effect h
  | polyMul d a b => exact rulePolyMul_effect h
  | polyMod d a b => exact rulePolyMod_effect h
  | polyGen d n => exact rulePolyGen_effect h
  | segClassify seg => exact ruleSegClassify_effect h
  | segCost seg => exact ruleSegCost_effect h
  | segWrite seg => exact ruleSegWrite_effect h
  | bbClear => cases h; exact .clear
  | bbPut width => exact ruleBbPut_effect h
  | bbEom max => exact ruleBbEom_effect h
  | bbPad target => exact ruleBbPad_effect h
  | ecInfo => exact ruleEcInfo_effect h
  | rsAssemble => exact ruleRsAssemble_effect h
  | mxTemplate => exact ruleMxTemplate_effect h
  | mxTrial mask test => exact ruleMxTrial_effect h
  | mxScore mask => exact ruleMxScore_effect h
  | mxEval => exact ruleMxEval_effect h
  | mxCommit mask useBest => exact ruleMxCommit_effect h
  | mxRead => exact ruleMxRead_effect h
  | verSelect => exact ruleVerSelect_effect h
  | encode => cases h

end

/-! ## What a command can do -/

/-- The commands ENCODE runs (`46_encoder.md` R284). -/
def isEncodeStep : Instr → Bool
  | .verSelect | .bbClear | .segWrite _ | .bbEom _ | .bbPad _ | .rsAssemble | .mxTemplate | .mxEval
  | .mxCommit _ _ => true
  | _ => false

/-- Command `i` runs the rule of command `j`: its own, or as ENCODE one of its steps. -/
def Runs (i j : Instr) : Prop := if i = .encode then isEncodeStep j = true else j = i

/-- ENCODE's steps before the evaluation of the masks. -/
def encodePrefix (nseg : Nat) : List Rule :=
  [ruleVerSelect, ruleBbClear] ++ (List.range nseg).map ruleSegWrite
    ++ [fun s => ruleBbEom (encodeCapacity s) s, fun s => ruleBbPad (encodeCapacity s) s,
        ruleRsAssemble, ruleMxTemplate]

theorem encodeSteps_eq (nseg : Nat) : encodeSteps nseg = encodePrefix nseg ++ [ruleMxEval, ruleMxCommit 0 true] := by
  simp [encodeSteps, encodePrefix]

/-- A step of ENCODE before the evaluation is a command's rule, and that command is no commit. -/
theorem encodePrefix_effect {nseg : Nat} {rule : Rule} (hr : rule ∈ encodePrefix nseg) {s u : State}
    (h : rule s = .ok u) : ∃ j, isEncodeStep j = true ∧ j ≠ .mxEval ∧ (∀ m b, j ≠ .mxCommit m b) ∧ Effect s j u := by
  simp only [encodePrefix, List.mem_append, List.mem_cons, List.mem_map, List.not_mem_nil, or_false] at hr
  rcases hr with ((rfl | rfl) | ⟨k, -, rfl⟩) | rfl | rfl | rfl | rfl
  · exact ⟨.verSelect, rfl, nofun, nofun, ruleVerSelect_effect h⟩
  · exact ⟨.bbClear, rfl, nofun, nofun, ruleOf_effect (i := .bbClear) h⟩
  · exact ⟨.segWrite k, rfl, nofun, nofun, ruleSegWrite_effect h⟩
  · exact ⟨.bbEom _, rfl, nofun, nofun, ruleBbEom_effect h⟩
  · exact ⟨.bbPad _, rfl, nofun, nofun, ruleBbPad_effect h⟩
  · exact ⟨.rsAssemble, rfl, nofun, nofun, ruleRsAssemble_effect h⟩
  · exact ⟨.mxTemplate, rfl, nofun, nofun, ruleMxTemplate_effect h⟩

theorem encodeSteps_effect {nseg : Nat} {rule : Rule} (hr : rule ∈ encodeSteps nseg) {s u : State}
    (h : rule s = .ok u) : ∃ j, isEncodeStep j = true ∧ Effect s j u := by
  rw [encodeSteps_eq, List.mem_append, List.mem_pair] at hr
  rcases hr with hr | rfl | rfl
  · obtain ⟨j, hj, -, -, he⟩ := encodePrefix_effect hr h
    exact ⟨j, hj, he⟩
  · exact ⟨.mxEval, rfl, ruleMxEval_effect h⟩
  · exact ⟨.mxCommit 0 true, rfl, ruleMxCommit_effect h⟩

theorem finishSteps_cases (reached : State × Option ErrCode) :
    (reached.2 = none ∧ finishSteps reached = reached.1.succeed) ∨
      ∃ e, reached.2 = some e ∧ finishSteps reached = reached.1.raise e := by
  obtain ⟨u, e⟩ := reached
  cases e with
  | none => exact .inl ⟨rfl, rfl⟩
  | some e => exact .inr ⟨e, rfl, rfl⟩

/-- What a command can do: it reaches a state by effects of the commands it runs, none where it is not ENCODE and
fails, and reports success or an error. A property those effects keep therefore holds of the state reached. -/
theorem exec_reaches {P : State → Prop} {i : Instr} {s t : State} (h : exec i s = .next t) (hs : P s)
    (hstep : ∀ j u v, Runs i j → P u → Effect u j v → P v) :
    ∃ u, P u ∧ (t = u.succeed ∨ ∃ e, t = u.raise e) := by
  by_cases hi : i = .encode
  · subst hi
    rw [exec_encode, completeSteps, Host.Outcome.next.injEq] at h
    refine ⟨(runSteps (encodeSteps s.nseg.toNat) s).1, runSteps_keeps (fun rule hr u v hu hv => ?_) hs, ?_⟩
    · obtain ⟨j, hj, he⟩ := encodeSteps_effect hr hv
      exact hstep j u v (by simpa only [Runs, if_true] using hj) hu he
    · rcases finishSteps_cases (runSteps (encodeSteps s.nseg.toNat) s) with ⟨-, hf⟩ | ⟨e, -, hf⟩
      · exact .inl (h ▸ hf)
      · exact .inr ⟨e, h ▸ hf⟩
  · rw [exec_eq_complete hi] at h
    rcases complete_cases h with ⟨u, hu, rfl⟩ | ⟨e, -, rfl⟩
    · exact ⟨u, hstep i s u (by simp only [Runs, if_neg hi]) hs (ruleOf_effect hu), .inl rfl⟩
    · exact ⟨s, hs, .inr ⟨e, rfl⟩⟩

/-- A command other than ENCODE has its effect and succeeds, or fails and changes STATUS alone. -/
theorem exec_cases {i : Instr} (hi : i ≠ .encode) {s t : State} (h : exec i s = .next t) :
    (∃ u, Effect s i u ∧ t = u.succeed) ∨ ∃ e, t = s.raise e := by
  rw [exec_eq_complete hi] at h
  rcases complete_cases h with ⟨u, hu, rfl⟩ | ⟨e, -, rfl⟩
  · exact .inl ⟨u, ruleOf_effect hu, rfl⟩
  · exact .inr ⟨e, rfl⟩

end Sys2Proof.Machine

/-! What the effects of commands leave unchanged: the registers no command writes, and memory outside a footprint. -/

namespace Sys2Proof.Machine

/-- `s` with the registers, memory and generation counters that commands write as `u` has them. -/
def State.withOutputs (s u : State) : State :=
  { s with
    result := u.result
    bitLen := u.bitLen
    cwLen := u.cwLen
    resVersion := u.resVersion
    resMode := u.resMode
    resMask := u.resMask
    tplVer := u.tplVer
    finalVer := u.finalVer
    ecNBlocks := u.ecNBlocks
    ecEcpb := u.ecEcpb
    ecTotal := u.ecTotal
    best := u.best
    pen := u.pen
    plen := u.plen
    mem := u.mem
    draws := { s.draws with cw := u.draws.cw, tpl := u.draws.tpl, final := u.draws.final, trial := u.draws.trial } }

/-- The lanes of MX_EVAL change memory, PEN and the generations of TRIAL only (`45_matrix.md` R262). -/
theorem evalLanes_frame (s t : State) (ms : List Nat) :
    ms.foldl (evalLane s) t =
      { t with
        mem := (ms.foldl (evalLane s) t).mem
        pen := (ms.foldl (evalLane s) t).pen
        draws := { t.draws with trial := (ms.foldl (evalLane s) t).draws.trial } } := by
  induction ms generalizing t with
  | nil => rfl
  | cons m rest ih => rw [List.foldl_cons, ih]; rfl

/-- A command's effect changes what commands write and nothing else. -/
theorem Effect.frame {s u : State} {i : Instr} (h : Effect s i u) : u = s.withOutputs u := by
  cases h with
  | append _ bits _ => rw [State.putBits_frame]; rfl
  | eval _ b => rw [evalLanes_frame]; rfl
  | _ => rfl

/-! ## Memory -/

/-- The addresses a command's effect may change, from the first up to the second. -/
def footprint (p : Params) : Instr → Nat × Nat
  | .polyNorm _ _ | .polyMul _ _ _ | .polyMod _ _ _ | .polyGen _ _ => (0x003000, 0x003300 + p.polyMax)
  | .segWrite _ | .bbPut _ | .bbEom _ | .bbPad _ => (0x005000, 0x007000)
  | .bbClear => (0x005000, 0x005000 + p.bbBytes)
  | .rsAssemble => (0x006000, 0x007000)
  | .mxTemplate => (0x010000, 0x018000)
  | .mxCommit _ _ => (0x018000, 0x020000)
  | .mxTrial _ _ | .mxEval => (0x020000, 0x060000)
  | _ => (0, 0)

theorem footprint_of_polyDest {p : Params} {i : Instr} {d : PReg} (h : polyDest i = some d) :
    footprint p i = (0x003000, 0x003300 + p.polyMax) := by
  cases i with
  | polyNorm | polyMul | polyMod | polyGen => rfl
  | _ => cases h

theorem footprint_of_appendsBits {p : Params} {i : Instr} (h : appendsBits i = true) :
    footprint p i = (0x005000, 0x007000) := by
  cases i with
  | segWrite | bbPut | bbEom | bbPad => rfl
  | _ => cases h

theorem State.sameOutside_refl (s : State) (lo hi : Nat) : s.sameOutside s lo hi := fun _ _ => rfl

theorem State.sameOutside_trans {s t u : State} {lo hi : Nat} (h : s.sameOutside t lo hi) (h' : t.sameOutside u lo hi) :
    s.sameOutside u lo hi := fun a ha => (h' a ha).trans (h a ha)

theorem State.sameOutside_mono {s t : State} {lo hi lo' hi' : Nat} (h : s.sameOutside t lo hi) (hl : lo' ≤ lo)
    (hh : hi ≤ hi') : s.sameOutside t lo' hi' := fun a ha => h a (by omega)

theorem State.sameOutside_writePoly (s : State) (d : PReg) (r : List Byte) :
    s.sameOutside (writePoly s d r) (0x003000 + 0x100 * d.val) (0x003000 + 0x100 * d.val + r.length) :=
  fun _ ha => State.byteAt_setBytes_other s r ha

/-- BITLEN has 16 bits, so bits are appended below 0x007000 whatever the size of the buffer. -/
theorem State.sameOutside_putBits (s : State) (bits : List Bool) :
    s.sameOutside (s.putBits bits) 0x005000 0x007000 := by
  induction bits generalizing s with
  | nil => exact State.sameOutside_refl _ _ _
  | cons b rest ih =>
    refine State.sameOutside_trans (fun a ha => State.byteAt_putBit_other s b ?_) (ih (s.putBit b))
    have := s.bitLen.isLt
    omega

theorem State.sameOutside_storeTrial (s : State) {m : Nat} (hm : m < 8) (g : Grid) :
    s.sameOutside (s.storeTrial m g) 0x020000 0x060000 :=
  fun _ ha => State.byteAt_storeTrial_outside s m g (by omega)

theorem State.sameOutside_evalLanes (s t : State) {ms : List Nat} (hms : ∀ m ∈ ms, m < 8) :
    t.sameOutside (ms.foldl (evalLane s) t) 0x020000 0x060000 := by
  induction ms generalizing t with
  | nil => exact State.sameOutside_refl _ _ _
  | cons m rest ih =>
    exact State.sameOutside_trans (State.sameOutside_storeTrial t (hms m List.mem_cons_self) (trial s m true))
      (ih (evalLane s t m) fun k hk => hms k (List.mem_cons_of_mem _ hk))

/-- A command's effect changes no byte outside its footprint. -/
theorem Effect.sameOutside {s u : State} {i : Instr} (h : Effect s i u) :
    s.sameOutside u (footprint s.params i).1 (footprint s.params i).2 := by
  cases h with
  | nop | result | ecInfo | score | select => exact fun _ _ => rfl
  | @poly _ d hi r hr =>
    rw [footprint_of_polyDest hi]
    have hd := d.isLt
    exact State.sameOutside_mono (State.sameOutside_writePoly s d r) (by omega) (by omega)
  | append hi bits _ => rw [footprint_of_appendsBits hi]; exact State.sameOutside_putBits s bits
  | clear =>
    intro a ha
    simp only [State.byteAt, byteOf]
    rw [Memory.get_replace_outside (base := Window.bb.base) s.mem [] ha fun c hc => absurd hc List.not_mem_nil]
  | assemble blocks bytes _ => exact fun a ha => State.byteAt_storeCw_outside s bytes ha
  | template _ => exact fun a ha => State.byteAt_storeTpl_outside s _ ha
  | trial mask test hm => exact State.sameOutside_storeTrial s (by omega) _
  | eval _ b => exact State.sameOutside_evalLanes s s fun m hm => List.mem_range.1 hm
  | commit mask useBest m _ => exact fun a ha => State.byteAt_storeFinal_outside s _ ha

/-- A byte the spec maps nowhere depends on the number of soft resets alone. -/
theorem State.byteAt_unmapped {s t : State} (h : t.draws.resets = s.draws.resets) {a : Nat} (ha : windowOf a = none) :
    t.byteAt a = s.byteAt a := by
  simp [State.byteAt, byteOf, Memory.get, Memory.writable, Memory.unlisted, Draws.generation, ha, h]

theorem windowOf_eq_none_of_le {a : Nat} (h : 0x060000 ≤ a) : windowOf a = none := by
  simp only [windowOf]
  repeat' rw [if_neg (by omega)]

/-- Only the polynomial commands have a footprint below BB. -/
theorem footprint_below_bb {p : Params} {i : Instr} (h : polyDest i = none) {a : Nat} (ha : a < 0x005000) :
    a < (footprint p i).1 ∨ (footprint p i).2 ≤ a := by
  cases i <;> simp only [footprint, polyDest, reduceCtorEq] at h ⊢ <;> omega

/-- Where the stores fit their windows, no footprint holds an address of the registers, the ROMs, SEGDESC or DATA. -/
theorem footprint_not_host {p : Params} (hp : p.Fits) (i : Instr) {a : Nat}
    (ha : a < 0x003000 ∨ 0x004000 ≤ a ∧ a < 0x005000) : a < (footprint p i).1 ∨ (footprint p i).2 ≤ a := by
  obtain ⟨hpoly, -⟩ := hp
  cases i <;> simp only [footprint] <;> omega

/-! ## Registers -/

section
variable {s u : State} {i : Instr}

/-- The commands that write RESULT (`10_state.md` R33). -/
def writesResult : Instr → Bool
  | .gfLog | .gfExp | .segClassify _ | .segCost _ | .ecInfo | .mxScore _ | .mxRead => true
  | _ => false

theorem writesResult_of_only (h : writesResultOnly i = true) : writesResult i = true := by
  cases i with
  | gfLog | gfExp | segClassify | segCost | mxRead => rfl
  | _ => cases h

/-- ENCODE writes neither RESULT nor a polynomial register. -/
theorem writes_of_isEncodeStep (h : isEncodeStep i = true) : writesResult i = false ∧ polyDest i = none := by
  cases i with
  | verSelect | bbClear | segWrite | bbEom | bbPad | rsAssemble | mxTemplate | mxEval | mxCommit => exact ⟨rfl, rfl⟩
  | _ => cases h

theorem Effect.result_eq (h : Effect s i u) (hi : writesResult i = false) : u.result = s.result := by
  cases h with
  | append _ bits _ => rw [State.putBits_frame]
  | eval _ b => rw [evalLanes_frame]
  | result hr _ => exact absurd (writesResult_of_only hr) (by simp [hi])
  | ecInfo | score => cases hi
  | _ => rfl

theorem Effect.cwLen_eq (h : Effect s i u) (hi : i ≠ .rsAssemble) : u.cwLen = s.cwLen := by
  cases h with
  | append _ bits _ => rw [State.putBits_frame]
  | eval _ b => rw [evalLanes_frame]
  | assemble => exact absurd rfl hi
  | _ => rfl

theorem Effect.tplVer_eq (h : Effect s i u) (hi : i ≠ .mxTemplate) : u.tplVer = s.tplVer := by
  cases h with
  | append _ bits _ => rw [State.putBits_frame]
  | eval _ b => rw [evalLanes_frame]
  | template => exact absurd rfl hi
  | _ => rfl

theorem Effect.final_eq (h : Effect s i u) (hi : ∀ m b, i ≠ .mxCommit m b) :
    u.finalVer = s.finalVer ∧ u.resMask = s.resMask := by
  cases h with
  | append _ bits _ => rw [State.putBits_frame]; exact ⟨rfl, rfl⟩
  | eval _ b => rw [evalLanes_frame]; exact ⟨rfl, rfl⟩
  | commit m b => exact absurd rfl (hi m b)
  | _ => exact ⟨rfl, rfl⟩

theorem Effect.ecInfo_eq (h : Effect s i u) (hi : i ≠ .ecInfo) (hi' : i ≠ .rsAssemble) :
    u.ecNBlocks = s.ecNBlocks ∧ u.ecEcpb = s.ecEcpb ∧ u.ecTotal = s.ecTotal := by
  cases h with
  | append _ bits _ => rw [State.putBits_frame]; exact ⟨rfl, rfl, rfl⟩
  | eval _ b => rw [evalLanes_frame]; exact ⟨rfl, rfl, rfl⟩
  | ecInfo => exact absurd rfl hi
  | assemble => exact absurd rfl hi'
  | _ => exact ⟨rfl, rfl, rfl⟩

theorem Effect.res_eq (h : Effect s i u) (hi : i ≠ .verSelect) :
    u.resVersion = s.resVersion ∧ u.resMode = s.resMode := by
  cases h with
  | append _ bits _ => rw [State.putBits_frame]; exact ⟨rfl, rfl⟩
  | eval _ b => rw [evalLanes_frame]; exact ⟨rfl, rfl⟩
  | select => exact absurd rfl hi
  | _ => exact ⟨rfl, rfl⟩

theorem Effect.best_eq (h : Effect s i u) (hi : i ≠ .mxEval) : u.best = s.best := by
  cases h with
  | append _ bits _ => rw [State.putBits_frame]
  | eval => exact absurd rfl hi
  | _ => rfl

theorem Effect.pen_eq (h : Effect s i u) (hi : i ≠ .mxEval) (hi' : ∀ m, i ≠ .mxScore m) : u.pen = s.pen := by
  cases h with
  | append _ bits _ => rw [State.putBits_frame]
  | eval => exact absurd rfl hi
  | score m => exact absurd rfl (hi' m)
  | _ => rfl

theorem Effect.plen_eq (h : Effect s i u) (hi : polyDest i = none) : u.plen = s.plen := by
  cases h with
  | append _ bits _ => rw [State.putBits_frame]
  | eval _ b => rw [evalLanes_frame]
  | poly hd => rw [hi] at hd; cases hd
  | _ => rfl

theorem Effect.bitLen_eq (h : Effect s i u) (hi : appendsBits i = false) (hi' : i ≠ .bbClear) :
    u.bitLen = s.bitLen := by
  cases h with
  | append ha _ _ => rw [hi] at ha; cases ha
  | eval _ b => rw [evalLanes_frame]
  | clear => exact absurd rfl hi'
  | _ => rfl

end

/-! ## Whole commands -/

theorem State.withOutputs_trans {s u v : State} (hu : u = s.withOutputs u) (hv : v = u.withOutputs v) :
    v = s.withOutputs v := by
  rw [hu] at hv
  exact hv

/-- A command reaches a state that differs in what commands write, and reports success or an error. -/
theorem exec_frame {i : Instr} {s t : State} (h : exec i s = .next t) :
    ∃ u, u = s.withOutputs u ∧ (t = u.succeed ∨ ∃ e, t = u.raise e) :=
  exec_reaches h rfl fun _ _ _ _ hu he => State.withOutputs_trans hu he.frame

/-- The steps of ENCODE before the evaluation of the masks keep what a failing ENCODE keeps. -/
def State.EncodeKeeps (s u : State) : Prop :=
  u = s.withOutputs u ∧ u.finalVer = s.finalVer ∧ u.resMask = s.resMask ∧ u.result = s.result ∧ u.plen = s.plen ∧
    s.sameOutside u 0x005000 0x018000

theorem footprint_encodePrefix {p : Params} (hp : p.Fits) {j : Instr} (hj : isEncodeStep j = true) (he : j ≠ .mxEval)
    (hc : ∀ m b, j ≠ .mxCommit m b) {a : Nat} (ha : a < 0x005000 ∨ 0x018000 ≤ a) :
    a < (footprint p j).1 ∨ (footprint p j).2 ≤ a := by
  obtain ⟨-, hbb, -⟩ := hp
  cases j <;> simp [isEncodeStep] at hj he hc <;> simp only [footprint, Params.bbBytes] <;> omega

/-- What MX_EVAL left can be committed: it needs a template, and BEST is a mask. -/
theorem ruleMxCommit_after_eval {s u : State} (h : ruleMxEval s = .ok u) : ∃ v, ruleMxCommit 0 true u = .ok v := by
  have hbest : u.best.toNat ≤ 7 := by have := u.best.isLt; omega
  have ht : u.tplVer ≠ 0 := by
    cases ruleMxEval_effect h with
    | result hi => cases hi
    | poly hi => cases hi
    | append hi => cases hi
    | eval ht b => rw [evalLanes_frame]; exact ht
  have hc : checkTrial u u.best.toNat = .ok () := checkTrial_eq_ok.2 ⟨ht, hbest⟩
  simp only [ruleMxCommit, if_true, hc]
  exact ⟨_, rfl⟩

/-- An ENCODE that fails does so before MX_EVAL, or in it with no effect. -/
theorem runSteps_encode_error {s u : State} {nseg : Nat} {e : ErrCode}
    (h : runSteps (encodeSteps nseg) s = (u, some e)) :
    u = (runSteps (encodePrefix nseg) s).1 := by
  rw [encodeSteps_eq] at h
  rcases hv : runSteps (encodePrefix nseg) s with ⟨v, o⟩
  cases o with
  | some e' => rw [runSteps_append_error hv] at h; cases h; rfl
  | none =>
    rw [runSteps_append hv] at h
    cases hr : ruleMxEval v with
    | error e' => rw [runSteps_cons_error hr] at h; cases h; rfl
    | ok w =>
      obtain ⟨x, hx⟩ := ruleMxCommit_after_eval hr
      rw [runSteps_cons_ok hr, runSteps_cons_ok hx] at h
      cases h

theorem runSteps_encode_frame (s : State) (nseg : Nat) :
    (runSteps (encodeSteps nseg) s).1 = s.withOutputs (runSteps (encodeSteps nseg) s).1 :=
  runSteps_keeps (P := fun u => u = s.withOutputs u)
    (fun _ hr _ _ hu hv => by
      obtain ⟨j, -, he⟩ := encodeSteps_effect hr hv
      exact State.withOutputs_trans hu he.frame) rfl

theorem encodePrefix_keeps {s : State} (hp : s.params.Fits) (nseg : Nat) :
    s.EncodeKeeps (runSteps (encodePrefix nseg) s).1 := by
  refine runSteps_keeps (P := s.EncodeKeeps) (fun rule hr u v hu hv => ?_)
    ⟨rfl, rfl, rfl, rfl, rfl, State.sameOutside_refl _ _ _⟩
  obtain ⟨j, hj, hne, hnc, he⟩ := encodePrefix_effect hr hv
  obtain ⟨hf, hfin, hmask, hres, hpl, hm⟩ := hu
  have hpu : u.params = s.params := by rw [hf]; rfl
  obtain ⟨hfin', hmask'⟩ := he.final_eq hnc
  obtain ⟨hwr, hwp⟩ := writes_of_isEncodeStep hj
  exact ⟨State.withOutputs_trans hf he.frame, hfin'.trans hfin, hmask'.trans hmask, (he.result_eq hwr).trans hres,
    (he.plen_eq hwp).trans hpl,
    State.sameOutside_trans hm fun a ha => he.sameOutside a (footprint_encodePrefix (hpu ▸ hp) hj hne hnc ha)⟩

end Sys2Proof.Machine

/-! What the host's next access can do to the core, apart from the host's own side. -/

namespace Sys2Proof.Machine

/-- The host's side of a state. -/
def State.hostSide (s : State) : HostSide where
  ieDone := s.ieDone
  ieErr := s.ieErr
  coll := s.coll
  lastOp := s.lastOp
  queue := s.hostQueue
  response := s.response
  accepted := s.draws.accepted
  reads := s.draws.reads

/-- An aligned access to a window the host can write lies between SEGDESC and BB. -/
theorem access_in_window {a : Nat} {width : Width} {w : Window} (h : targetOf width a = .window w)
    (hw : w.hostWritable = true) : 0x002000 ≤ a ∧ a + width.bytes ≤ 0x005000 := by
  simp only [targetOf] at h
  split at h
  · cases h
  · rename_i hal
    split at h
    · split at h <;> cases h
    · split at h
      · rename_i v hv
        cases h
        have hb := windowOf_some hv
        have hlow : a < 0x005000 → a + width.bytes ≤ 0x005000 := by
          cases width <;> simp only [Width.bytes] at hal ⊢ <;> omega
        cases w <;> simp only [Window.hostWritable, Bool.false_eq_true, Window.base, Window.size] at hw hb <;>
          exact ⟨by omega, hlow (by omega)⟩
      · cases h

theorem leBytes_length (n : Nat) (w : Word) : (leBytes n w).length = n := by
  induction n generalizing w with
  | zero => rfl
  | succ n ih => simp [leBytes, ih]

/-- What a host access makes of the core, apart from the host's own side: nothing, bytes stored in SEGDESC, PCOEF or
DATA, or a register written. -/
inductive HostEffect (s : State) : State → Prop where
  | nothing : HostEffect s s
  | store (a : Nat) (bytes : List Byte) (ha : 0x002000 ≤ a ∧ a + bytes.length ≤ 0x005000) :
    HostEffect s (s.setBytes a bytes)
  | write (r : Reg) (w : Word) (hr : (s.busy && r.droppedWhileBusy) = false) : HostEffect s (s.writeReg r w)

/-- A register write does not depend on the host's queue, and the response is set after it. -/
theorem State.writeReg_hostSide (s : State) (r : Reg) (w : Word) (q : List HostAction) (x : Option BusResponse) :
    ({ ({ s with hostQueue := q } : State).writeReg r w with response := x } : State) =
      (s.writeReg r w).withHostSide
        ({ ({ s with hostQueue := q } : State).writeReg r w with response := x } : State).hostSide := by
  cases r with
  | ctrl => simp only [State.writeReg, State.writeCtrl]; split <;> rfl
  | _ => rfl

theorem State.hostWrite_effect (s : State) (q : List HostAction) (width : Width) (addr : BitVec 24) (value : Word) :
    ∃ u, HostEffect s u ∧ { s with hostQueue := q }.hostWrite width addr value =
      u.withHostSide ({ s with hostQueue := q }.hostWrite width addr value).hostSide := by
  simp only [State.hostWrite]
  rcases State.writeEffect_cases { s with hostQueue := q } width (State.busOffset { s with hostQueue := q } addr) value
    with he | ⟨-, he⟩ | ⟨w, ht, hw, -, he⟩ | ⟨r, -, hr, he⟩ <;> rw [he]
  · exact ⟨s, .nothing, rfl⟩
  · exact ⟨s, .nothing, rfl⟩
  · obtain ⟨h1, h2⟩ := access_in_window ht hw
    exact ⟨s.setBytes _ _, .store _ _ ⟨h1, by rw [leBytes_length]; exact h2⟩, rfl⟩
  · exact ⟨s.writeReg r value, .write r value hr, State.writeReg_hostSide s r value q _⟩

/-- The host's next access has one of these effects, and changes the host's own side. -/
theorem State.hostStep_effect (s : State) : ∃ u h, HostEffect s u ∧ s.hostStep = u.withHostSide h := by
  rcases s.hostStep_cases with h | ⟨q, width, addr, h⟩ | ⟨width, addr, value, rest, -, h⟩
  · exact ⟨s, s.hostSide, .nothing, h⟩
  · refine ⟨s, ({ s with hostQueue := q }.hostRead width addr).hostSide, .nothing, ?_⟩
    rw [h]
    simp only [State.hostRead]
    split <;> rfl
  · obtain ⟨u, hu, he⟩ := s.hostWrite_effect rest width addr value
    exact ⟨u, _, hu, h.trans he⟩

end Sys2Proof.Machine

/-! The invariants of the machine: what a step can do to what they speak of, and that every step keeps them. -/

namespace Sys2Proof.Machine

/-! ## What a step can do -/

/-- Two states with the same parameters, the same command-written registers of the invariants, and the same bytes from
BB up. -/
structure State.SameOutputs (s t : State) : Prop where
  params : t.params = s.params
  bitLen : t.bitLen = s.bitLen
  cwLen : t.cwLen = s.cwLen
  resVersion : t.resVersion = s.resVersion
  resMode : t.resMode = s.resMode
  tplVer : t.tplVer = s.tplVer
  finalVer : t.finalVer = s.finalVer
  byteAt : ∀ a, 0x005000 ≤ a → t.byteAt a = s.byteAt a

theorem State.sameOutputs_succeed (s : State) : s.SameOutputs s.succeed :=
  ⟨rfl, rfl, rfl, rfl, rfl, rfl, rfl, fun _ _ => rfl⟩

theorem State.sameOutputs_raise (s : State) (e : ErrCode) : s.SameOutputs (s.raise e) :=
  ⟨rfl, rfl, rfl, rfl, rfl, rfl, rfl, fun _ _ => rfl⟩

theorem State.sameOutputs_tick (s : State) (f : InFlight) : s.SameOutputs (s.tick f) :=
  ⟨rfl, rfl, rfl, rfl, rfl, rfl, rfl, fun _ _ => rfl⟩

theorem State.sameOutputs_withHostSide (s : State) (h : HostSide) : s.SameOutputs (s.withHostSide h) :=
  ⟨rfl, rfl, rfl, rfl, rfl, rfl, rfl, fun _ _ => rfl⟩

/-- A register write resets the core or leaves what commands write alone. -/
theorem State.writeReg_outputs (s : State) (r : Reg) (w : Word) :
    s.SameOutputs (s.writeReg r w) ∨ s.writeReg r w = s.softReset := by
  cases r with
  | ctrl =>
    simp only [State.writeReg, State.writeCtrl]
    split
    · exact .inr rfl
    · exact .inl ⟨rfl, rfl, rfl, rfl, rfl, rfl, rfl, fun _ _ => rfl⟩
  | _ => exact .inl ⟨rfl, rfl, rfl, rfl, rfl, rfl, rfl, fun _ _ => rfl⟩

theorem HostEffect.outputs {s u : State} (h : HostEffect s u) : s.SameOutputs u ∨ u = s.softReset := by
  cases h with
  | nothing => exact .inl ⟨rfl, rfl, rfl, rfl, rfl, rfl, rfl, fun _ _ => rfl⟩
  | store a bytes ha =>
    exact .inl ⟨rfl, rfl, rfl, rfl, rfl, rfl, rfl, fun b hb => State.byteAt_setBytes_other s bytes (by omega)⟩
  | write r w _ => exact s.writeReg_outputs r w

/-- A property of a state's outputs that soft reset establishes and every effect keeps is kept by every step. -/
theorem step_keeps {P : State → Prop} (hsame : ∀ {s t}, s.SameOutputs t → P s → P t)
    (hreset : ∀ {s}, P s → P s.softReset) (heff : ∀ {i s u}, P s → Effect s i u → P u) {s t : State} (hs : P s)
    (h : step s = .next t) : P t := by
  have hhost : ∀ {s : State}, P s → P s.hostStep := fun {s} hs => by
    obtain ⟨u, side, hu, he⟩ := s.hostStep_effect
    rw [he]
    rcases hu.outputs with ho | rfl
    · exact hsame (u.sameOutputs_withHostSide side) (hsame ho hs)
    · exact hsame (s.softReset.sameOutputs_withHostSide side) (hreset hs)
  rcases step_cases h with ⟨f, i, -, -, -, he⟩ | ⟨f, e, -, -, -, rfl⟩ | ⟨-, rfl⟩ | ⟨f, -, -, rfl⟩
  · obtain ⟨u, hu, rfl | ⟨e, rfl⟩⟩ := exec_reaches he hs fun _ _ _ _ hu he => heff hu he
    · exact hsame u.sameOutputs_succeed hu
    · exact hsame (u.sameOutputs_raise e) hu
  · exact hsame (s.sameOutputs_raise _) hs
  · exact hhost hs
  · exact hhost (hsame (s.sameOutputs_tick f) hs)

/-! ## STATUS -/

theorem statusConsistent_of_exec {i : Instr} {s t : State} (hs : s.StatusConsistent) (h : exec i s = .next t) :
    t.StatusConsistent := by
  obtain ⟨h0, h1, -⟩ := hs
  obtain ⟨u, hu, rfl | ⟨e, rfl⟩⟩ := exec_frame h
  · have herr : u.succeed.err = s.err ∧ u.succeed.errCode = s.errCode := by rw [hu]; exact ⟨rfl, rfl⟩
    obtain ⟨he, hc⟩ := herr
    exact ⟨fun h => hc.trans (h0 (he ▸ h)), fun h => hc ▸ h1 (he ▸ h), nofun⟩
  · exact ⟨nofun, fun _ => ⟨e, rfl⟩, nofun⟩

/-- A register write keeps STATUS consistent: acceptance clears it, and clearing ERR clears the code. -/
theorem statusConsistent_of_writeReg {s : State} (hs : s.StatusConsistent) (r : Reg) (w : Word) :
    (s.writeReg r w).StatusConsistent := by
  obtain ⟨h0, h1, h2⟩ := hs
  cases r with
  | ctrl =>
    simp only [State.writeReg, State.writeCtrl]
    split
    · exact ⟨fun _ => rfl, nofun, nofun⟩
    · exact ⟨h0, h1, h2⟩
  | status =>
    simp only [State.writeReg, State.StatusConsistent, State.ackStatus, State.busy] at h2 ⊢
    cases hw : w.getLsbD 2 with
    | true => exact ⟨fun _ => rfl, by simp, fun hb => by simp [h2 hb]⟩
    | false => exact ⟨by simpa using h0, by simpa using h1, fun hb => by simp [h2 hb]⟩
  | cmd => exact ⟨fun _ => rfl, nofun, fun _ => ⟨rfl, rfl⟩⟩
  | _ => exact ⟨h0, h1, h2⟩

theorem statusConsistent_of_hostStep {s : State} (hs : s.StatusConsistent) : s.hostStep.StatusConsistent := by
  obtain ⟨u, side, hu, he⟩ := s.hostStep_effect
  rw [he]
  have : u.StatusConsistent := by
    cases hu with
    | nothing => exact hs
    | store _ _ _ => exact hs
    | write r w _ => exact statusConsistent_of_writeReg hs r w
  exact this

/-! ## The registers' ranges and the tail of the buffer -/

theorem totalCodewords_expandGroups (gs : List EcGroup) : totalCodewords (expandGroups gs) = totalCount gs := by
  induction gs with
  | nil => rfl
  | cons g rest ih =>
    simp only [totalCodewords, expandGroups, totalCount, List.flatMap_cons, List.map_append, List.sum_append,
      List.map_replicate, List.sum_replicate, List.map_cons, List.sum_cons, smul_eq_mul] at ih ⊢
    rw [ih]

theorem totalCount_ecGroups_le {p : Params} (hp : p.Fits) (v : Nat) (lvl : BitVec 2) :
    totalCount (p.ecGroups v lvl) ≤ 4096 := by
  obtain ⟨-, -, -, -, hrow⟩ := hp
  have hgroups : ∀ row : EcRow, totalCount row.l ≤ 4096 ∧ totalCount row.m ≤ 4096 ∧ totalCount row.q ≤ 4096 ∧
      totalCount row.h ≤ 4096 → totalCount (row.groups lvl) ≤ 4096 := fun row ⟨hl, hm, hq, hh⟩ => by
    simp only [EcRow.groups]
    split <;> assumption
  refine hgroups _ ?_
  rw [List.getD_eq_getElem?_getD]
  cases hr : p.ecTable[v - 1]? with
  | none => simp [totalCount]
  | some row => exact hrow row (List.mem_of_getElem? hr)

/-- The codewords of a row of EC_TABLE fit CW. -/
theorem totalCodewords_le {p : Params} (hp : p.Fits) {v : Nat} {lvl : BitVec 2} {blocks : List Block}
    (h : ecLookup p v lvl = .ok blocks) : totalCodewords blocks ≤ 4096 := by
  simp only [ecLookup] at h
  split at h
  · cases h
  · cases h
    rw [totalCodewords_expandGroups]
    exact totalCount_ecGroups_le hp v lvl

theorem registersBounded_of_effect {s u : State} {i : Instr} (hs : s.RegistersBounded) (h : Effect s i u) :
    u.RegistersBounded := by
  obtain ⟨hp, hbit, hcw, hver, hmode, htpl, hfin⟩ := hs
  cases h with
  | append _ bits hb =>
    rw [State.putBits_frame]
    refine ⟨hp, ?_, hcw, hver, hmode, htpl, hfin⟩
    show (s.putBits bits).bitLen.toNat ≤ s.params.bbMaxBits
    rcases hb with rfl | hb
    · exact hbit
    · have := hp.2.1
      rw [State.putBits_bitLen s bits (by omega)]
      exact hb
  | clear => exact ⟨hp, Nat.zero_le _, hcw, hver, hmode, htpl, hfin⟩
  | assemble blocks bytes hb =>
    refine ⟨hp, hbit, ?_, hver, hmode, htpl, hfin⟩
    have := totalCodewords_le hp hb
    show totalCodewords blocks % 2 ^ 16 ≤ 4096
    omega
  | template hv => exact ⟨hp, hbit, hcw, hver, hmode, hv, hfin⟩
  | eval _ b => rw [evalLanes_frame]; exact ⟨hp, hbit, hcw, hver, hmode, htpl, hfin⟩
  | commit => exact ⟨hp, hbit, hcw, hver, hmode, htpl, htpl⟩
  | select v mode hv hm =>
    refine ⟨hp, hbit, hcw, ?_, ?_, htpl, hfin⟩
    · show v % 2 ^ 6 ≤ 40
      omega
    · rcases hm with rfl | rfl | rfl | rfl
      exacts [.inl rfl, .inr (.inl rfl), .inr (.inr (.inl rfl)), .inr (.inr (.inr rfl))]
  | nop | result | poly | ecInfo | trial | score => exact ⟨hp, hbit, hcw, hver, hmode, htpl, hfin⟩

theorem State.bbBit_congr {s t : State} {k : Nat} (h : t.byteAt (0x005000 + k / 8) = s.byteAt (0x005000 + k / 8)) :
    t.bbBit k = s.bbBit k := by simp only [State.bbBit, h]

/-- A byte of BB that is not listed reads 0 (`10_state.md` R55). -/
theorem State.byteAt_bb_unlisted {s : State} {a : Nat} (ha : 0x005000 ≤ a ∧ a < 0x006000)
    (h : Memory.lookup s.mem a = none) : s.byteAt a = 0 := by
  simp [State.byteAt, byteOf, Memory.get, writable_bb ha, h, Memory.unlisted, windowOf_eq_of_lt ha]

/-- Where the stores fit their windows, only appending and clearing have a footprint in BB. -/
theorem footprint_not_bb {p : Params} (hp : p.Fits) {i : Instr} (hi : appendsBits i = false) (hc : i ≠ .bbClear)
    {a : Nat} (ha : 0x005000 ≤ a ∧ a < 0x006000) : a < (footprint p i).1 ∨ (footprint p i).2 ≤ a := by
  obtain ⟨hpoly, -⟩ := hp
  cases i <;> simp [appendsBits] at hi hc <;> simp only [footprint] <;> omega

theorem bufferTailZero_of_clear {s : State} (hs : s.RegistersBounded) (ht : s.BufferTailZero) {k : Nat}
    (hk : k < 32768) :
    ({ s with mem := Memory.replace s.mem Window.bb.base s.params.bbBytes [] } : State).bbBit k = false := by
  obtain ⟨-, hbit, -⟩ := hs
  by_cases hin : k / 8 < s.params.bbBytes
  · have hl := Memory.lookup_replace_inside s.mem [] (base := 0x005000) (len := s.params.bbBytes)
      (a := 0x005000 + k / 8) (by omega)
    rw [State.bbBit, State.byteAt_bb_unlisted (by omega) hl]
    exact BitVec.getLsbD_zero
  · have hout := Effect.sameOutside (.clear (s := s)) (0x005000 + k / 8) (by simp only [footprint]; omega)
    refine Eq.trans (State.bbBit_congr hout) (ht k ?_ hk)
    simp only [Params.bbBytes] at hin
    omega

theorem bufferTailZero_of_effect {s u : State} {i : Instr} (hs : s.RegistersBounded) (ht : s.BufferTailZero)
    (h : Effect s i u) : u.BufferTailZero := by
  intro k hle hk
  have hp := hs.1
  by_cases ha : appendsBits i = true
  · cases h with
    | append _ bits hb =>
      rcases hb with rfl | hb
      · exact ht k hle hk
      · have hmax := hp.2.1
        rw [State.putBits_bitLen s bits (by omega)] at hle
        rw [State.bbBit_putBits s bits k (by omega), if_neg (by omega)]
        exact ht k (by omega) hk
    | result hi => cases i <;> simp [appendsBits, writesResultOnly] at ha hi
    | poly hi => cases i <;> simp [appendsBits, polyDest] at ha hi
    | _ => cases ha
  · by_cases hc : i = .bbClear
    · subst hc
      cases h with
      | clear => exact bufferTailZero_of_clear hs ht hk
      | result hi => cases hi
      | poly hi => cases hi
      | append hi => cases hi
    · have hf : appendsBits i = false := by simpa using ha
      rw [h.bitLen_eq hf hc] at hle
      rw [State.bbBit_congr (h.sameOutside _ (footprint_not_bb hp hf hc (by omega)))]
      exact ht k hle hk

end Sys2Proof.Machine

/-! A symbol is drawn: every phase of the placer leaves a cell as it is or makes it LIGHT or DARK, and after the last
phase no cell of a committed symbol is UNSET (`45_matrix.md` R231-R244, R267). -/

namespace Sys2Proof.Machine

/-- A cell's byte is LIGHT or DARK. -/
def Assigned (v : Byte) : Prop := v = cellLight ∨ v = cellDark

theorem Assigned.ne_unset {v : Byte} (h : Assigned v) : v ≠ cellUnset := by
  rcases h with rfl | rfl <;> decide

theorem assigned_cellOf (dark : Bool) : Assigned (cellOf dark) := by
  cases dark
  · exact .inl rfl
  · exact .inr rfl

/-- `k` is `g` with some cells made LIGHT or DARK. -/
def Grid.Draws (g k : Grid) : Prop := ∀ r c, k.get r c = g.get r c ∨ Assigned (k.get r c)

theorem Grid.draws_refl (g : Grid) : g.Draws g := fun _ _ => .inl rfl

theorem Grid.draws_trans {g k l : Grid} (h : g.Draws k) (h' : k.Draws l) : g.Draws l := fun r c => by
  rcases h' r c with h' | h'
  · rw [h']; exact h r c
  · exact .inr h'

/-- A cell that is not UNSET stays so. -/
theorem Grid.Draws.ne_unset {g k : Grid} (h : g.Draws k) {r c : Nat} (hg : g.get r c ≠ cellUnset) :
    k.get r c ≠ cellUnset := by
  rcases h r c with h | h
  · rw [h]; exact hg
  · exact h.ne_unset

theorem Grid.get_set_cases (g : Grid) (r c r' c' : Nat) (v : Byte) :
    (g.set r c v).get r' c' = g.get r' c' ∨ (g.set r c v).get r' c' = v := by
  by_cases h : r' = r ∧ c' = c
  · obtain ⟨rfl, rfl⟩ := h
    by_cases hr : r' < g.length
    · by_cases hc : c' < g[r'].length <;> simp [Grid.get, Grid.set, List.getD_eq_getElem?_getD, hr, hc]
    · simp [Grid.get, Grid.set, List.getD_eq_getElem?_getD, hr]
  · exact .inl (Grid.get_set_other g v (by omega))

theorem Grid.draws_set (g : Grid) (r c : Nat) {v : Byte} (hv : Assigned v) : g.Draws (g.set r c v) :=
  fun r' c' => by
    rcases Grid.get_set_cases g r c r' c' v with h | h
    · exact .inl h
    · rw [h]; exact .inr hv

theorem Grid.draws_foldl {α : Type} {f : Grid → α → Grid} (xs : List α)
    (hf : ∀ g : Grid, ∀ x ∈ xs, g.Draws (f g x)) (g : Grid) : g.Draws (xs.foldl f g) := by
  induction xs generalizing g with
  | nil => exact g.draws_refl
  | cons x rest ih =>
    exact Grid.draws_trans (hf g x List.mem_cons_self) (ih (fun g y hy => hf g y (List.mem_cons_of_mem _ hy)) (f g x))

/-- Where one of the drawing steps sets a cell of a square table, the cell is set after all of them. -/
theorem Grid.foldl_sets {α : Type} {n r c : Nat} {f : Grid → α → Grid} {xs : List α}
    (hf : ∀ g : Grid, ∀ x ∈ xs, g.Draws (f g x)) (hsq : ∀ (g : Grid) x, g.isSquare n → (f g x).isSquare n) {x : α}
    (hx : x ∈ xs)
    (hset : ∀ g : Grid, g.isSquare n → (f g x).get r c ≠ cellUnset) {g : Grid} (hg : g.isSquare n) :
    (xs.foldl f g).get r c ≠ cellUnset := by
  induction xs generalizing g with
  | nil => exact absurd hx List.not_mem_nil
  | cons y rest ih =>
    have hrest : ∀ g : Grid, ∀ x ∈ rest, g.Draws (f g x) := fun g x hm => hf g x (List.mem_cons_of_mem _ hm)
    rcases List.mem_cons.1 hx with rfl | hx
    · exact (Grid.draws_foldl rest hrest _).ne_unset (hset g hg)
    · exact ih hrest hx (hsq g y hg)

/-! ## The phases of the placer draw -/

theorem Grid.draws_setAt (g : Grid) (r c : Int) {v : Byte} (hv : Assigned v) : g.Draws (g.setAt r c v) := by
  simp only [Grid.setAt]
  split
  · exact g.draws_set _ _ hv
  · exact g.draws_refl

theorem Grid.draws_setAll {ws : List (Int × Int × Byte)} (hw : ∀ w ∈ ws, Assigned w.2.2) (g : Grid) :
    g.Draws (g.setAll ws) :=
  Grid.draws_foldl ws (fun g w hm => g.draws_setAt _ _ (hw w hm)) g

theorem Grid.draws_setUnset (g : Grid) (r c : Nat) {v : Byte} (hv : Assigned v) :
    g.Draws (g.setUnset r c v) := by
  simp only [Grid.setUnset]
  split
  · exact g.draws_set _ _ hv
  · exact g.draws_refl

theorem assigned_finderCell (i j : Int) : Assigned (finderCell i j) := by
  simp only [finderCell]
  split
  · split
    · exact .inr rfl
    · split
      · exact .inr rfl
      · exact .inl rfl
  · exact .inl rfl

theorem assigned_of_mem_finderWrites {r0 c0 : Int} {w : Int × Int × Byte} (h : w ∈ finderWrites r0 c0) :
    Assigned w.2.2 := by
  simp only [finderWrites, List.mem_flatMap, List.mem_map] at h
  obtain ⟨i, -, j, -, rfl⟩ := h
  exact assigned_finderCell i j

theorem assigned_of_mem_alignmentWrites {r0 c0 : Int} {w : Int × Int × Byte} (h : w ∈ alignmentWrites r0 c0) :
    Assigned w.2.2 := by
  simp only [alignmentWrites, List.mem_flatMap, List.mem_map] at h
  obtain ⟨i, -, j, -, rfl⟩ := h
  exact assigned_cellOf _

/-- The writes of the three finder patterns. -/
def allFinderWrites (n : Nat) : List (Int × Int × Byte) :=
  finderWrites 0 0 ++ finderWrites (n - 7) 0 ++ finderWrites 0 (n - 7)

theorem placeFinders_eq (n : Nat) (g : Grid) : placeFinders n g = g.setAll (allFinderWrites n) := rfl

theorem assigned_of_mem_allFinderWrites {n : Nat} {w : Int × Int × Byte} (h : w ∈ allFinderWrites n) :
    Assigned w.2.2 := by
  simp only [allFinderWrites, List.mem_append] at h
  rcases h with (h | h) | h <;> exact assigned_of_mem_finderWrites h

theorem draws_placeFinders (n : Nat) (g : Grid) : g.Draws (placeFinders n g) :=
  Grid.draws_setAll (fun _ => assigned_of_mem_allFinderWrites) g

theorem draws_placeAlignments (p : Params) (v : Nat) (g : Grid) : g.Draws (placeAlignments p v g) :=
  Grid.draws_foldl _ (fun g c _ => by
    simp only [placeAlignment]
    split
    · exact Grid.draws_setAll (fun _ => assigned_of_mem_alignmentWrites) g
    · exact g.draws_refl) g

/-- One index of the timing patterns. -/
def timingStep (g : Grid) (i : Nat) : Grid :=
  (g.setUnset i 6 (cellOf (i % 2 = 0))).setUnset 6 i (cellOf (i % 2 = 0))

theorem placeTiming_eq (n : Nat) (g : Grid) : placeTiming n g = (List.range' 8 (n - 16)).foldl timingStep g := rfl

theorem draws_timingStep (g : Grid) (i : Nat) : g.Draws (timingStep g i) :=
  Grid.draws_trans (Grid.draws_setUnset _ _ _ (assigned_cellOf _)) (Grid.draws_setUnset _ _ _ (assigned_cellOf _))

theorem draws_placeTiming (n : Nat) (g : Grid) : g.Draws (placeTiming n g) :=
  Grid.draws_foldl _ (fun g i _ => draws_timingStep g i) g

theorem draws_placeFormat (n fmt : Nat) (test : Bool) (g : Grid) : g.Draws (placeFormat n fmt test g) :=
  Grid.draws_foldl _ (fun _ _ _ =>
    Grid.draws_trans (Grid.draws_set _ _ _ (assigned_cellOf _)) (Grid.draws_set _ _ _ (assigned_cellOf _))) g

theorem draws_placeDarkModule (p : Params) (n : Nat) (test : Bool) (g : Grid) : g.Draws (placeDarkModule p n test g) :=
  g.draws_set _ _ (assigned_cellOf _)

theorem draws_placeVersion (p : Params) (v n : Nat) (test : Bool) (g : Grid) : g.Draws (placeVersion p v n test g) := by
  simp only [placeVersion]
  split
  · exact Grid.draws_foldl _ (fun _ _ _ =>
      Grid.draws_trans (Grid.draws_set _ _ _ (assigned_cellOf _)) (Grid.draws_set _ _ _ (assigned_cellOf _))) g
  · exact g.draws_refl

theorem draws_placeData (m : Nat) (order : List (Nat × Nat)) (bits : List Bool) (g : Grid) :
    g.Draws (placeData m order bits g) := by
  induction order generalizing bits g with
  | nil => exact g.draws_refl
  | cons x rest ih =>
    simp only [placeData]
    split
    · exact Grid.draws_trans (g.draws_set _ _ (assigned_cellOf _)) (ih _ _)
    · exact ih _ _

/-- A trial is its template with cells made LIGHT or DARK. -/
theorem draws_trialGrid (p : Params) (v : Nat) (lvl : BitVec 2) (bits : List Bool) (m : Nat) (test : Bool) (g : Grid) :
    g.Draws (trialGrid p v lvl bits m test g) :=
  Grid.draws_trans (Grid.draws_trans (Grid.draws_trans (draws_placeFormat _ _ _ g) (draws_placeDarkModule _ _ _ _))
    (draws_placeVersion _ _ _ _ _)) (draws_placeData _ _ _ _)

/-! ## What is set -/

theorem blankGrid_get (n r c : Nat) : (blankGrid n).get r c = cellUnset := by
  by_cases hr : r < n
  · by_cases hc : c < n <;> simp [Grid.get, blankGrid, List.getD_eq_getElem?_getD, hr, hc]
  · simp [Grid.get, blankGrid, List.getD_eq_getElem?_getD, hr]

/-- The template before its timing patterns. -/
def patternGrid (p : Params) (v : Nat) : Grid :=
  placeAlignments p v (placeFinders (moduleCount v) (blankGrid (moduleCount v)))

theorem template_eq (p : Params) (v : Nat) : template p v = placeTiming (moduleCount v) (patternGrid p v) := rfl

theorem patternGrid_isSquare (p : Params) (v : Nat) : (patternGrid p v).isSquare (moduleCount v) :=
  Grid.isSquare_foldl _ (fun _ c hg => placeAlignment_isSquare hg c) _ (Grid.isSquare_setAll (blankGrid_isSquare _) _)

/-- Every cell of a template is UNSET, LIGHT or DARK. -/
theorem template_get_cases (p : Params) (v r c : Nat) :
    (template p v).get r c = cellUnset ∨ Assigned ((template p v).get r c) := by
  have h := Grid.draws_trans (Grid.draws_trans (draws_placeFinders (moduleCount v) (blankGrid (moduleCount v)))
    (draws_placeAlignments p v _)) (draws_placeTiming (moduleCount v) _) r c
  rwa [blankGrid_get] at h

theorem mem_intRange {lo k : Int} {count : Nat} : k ∈ intRange lo count ↔ lo ≤ k ∧ k < lo + count := by
  simp only [intRange, List.mem_map, List.mem_range]
  constructor
  · rintro ⟨j, hj, rfl⟩
    omega
  · intro h
    exact ⟨(k - lo).toNat, by omega, by omega⟩

/-- The left finder patterns and their separators reach column 6 in the first and the last eight rows. -/
theorem mem_allFinderWrites_column6 {n r : Nat} (hn : r < n) (h : r < 8 ∨ n - 8 ≤ r) (h8 : 8 ≤ n) :
    ∃ b, ((r : Int), (6 : Int), b) ∈ allFinderWrites n := by
  rcases h with h | h
  · refine ⟨finderCell r 6, ?_⟩
    simp only [allFinderWrites, List.mem_append]
    refine .inl (.inl (List.mem_flatMap.2
      ⟨r, mem_intRange.2 (by omega), List.mem_map.2 ⟨6, mem_intRange.2 (by omega), ?_⟩⟩))
    simp
  · refine ⟨finderCell (r - (n - 7)) 6, ?_⟩
    simp only [allFinderWrites, List.mem_append]
    refine .inl (.inr (List.mem_flatMap.2
      ⟨(r : Int) - (n - 7), mem_intRange.2 (by omega), List.mem_map.2 ⟨6, mem_intRange.2 (by omega), ?_⟩⟩))
    simp

theorem placeFinders_column6 {n r : Nat} (h8 : 8 ≤ n) (hr : r < n) (h : r < 8 ∨ n - 8 ≤ r) {g : Grid}
    (hg : g.isSquare n) : (placeFinders n g).get r 6 ≠ cellUnset := by
  obtain ⟨b, hb⟩ := mem_allFinderWrites_column6 hr h h8
  rw [placeFinders_eq, Grid.setAll]
  refine Grid.foldl_sets (fun g w hw => g.draws_setAt _ _ (assigned_of_mem_allFinderWrites hw))
    (fun g w hg => Grid.isSquare_setAt hg _ _ _) hb (fun g hg => ?_) hg
  have hset : (g.setAt (r : Int) 6 b).get r 6 = b := by
    rw [Grid.setAt, if_pos (by omega)]
    exact Grid.get_set_same hg b hr (by omega)
  rw [hset]
  exact (assigned_of_mem_allFinderWrites hb).ne_unset

theorem placeTiming_column6 {n r : Nat} (h : 8 ≤ r) (hr : r < n - 8) {g : Grid} (hg : g.isSquare n) :
    (placeTiming n g).get r 6 ≠ cellUnset := by
  rw [placeTiming_eq]
  refine Grid.foldl_sets (x := r) (fun g i _ => draws_timingStep g i)
    (fun g i hg => Grid.isSquare_setUnset (Grid.isSquare_setUnset hg _ _ _) _ _ _)
    (by simp only [List.mem_range'_1]; omega) (fun g hg => ?_) hg
  refine (Grid.draws_setUnset _ _ _ (assigned_cellOf _)).ne_unset ?_
  simp only [Grid.setUnset]
  split
  · rw [Grid.get_set_same hg _ (by omega) (by omega)]
    exact (assigned_cellOf _).ne_unset
  · assumption

/-- No cell of column 6 of a template is UNSET: the sweep of R242 passes it over. -/
theorem template_column6 (p : Params) {v r : Nat} (hv : 1 ≤ v) (hr : r < moduleCount v) :
    (template p v).get r 6 ≠ cellUnset := by
  have hn : 21 ≤ moduleCount v := by simp only [moduleCount]; omega
  rw [template_eq]
  by_cases h : r < 8 ∨ moduleCount v - 8 ≤ r
  · exact (draws_placeTiming _ _).ne_unset ((draws_placeAlignments p v _).ne_unset
      (placeFinders_column6 (by omega) hr h (blankGrid_isSquare _)))
  · exact placeTiming_column6 (by omega) (by omega) (patternGrid_isSquare p v)

/-- Placing data sets every cell it visits (`45_matrix.md` R242). -/
theorem placeData_sets {n r c : Nat} (m : Nat) {order : List (Nat × Nat)} (bits : List Bool) {g : Grid}
    (hg : g.isSquare n) (hm : (r, c) ∈ order) (hr : r < n) (hc : c < n) :
    (placeData m order bits g).get r c ≠ cellUnset := by
  induction order generalizing bits g with
  | nil => exact absurd hm List.not_mem_nil
  | cons x rest ih =>
    simp only [placeData]
    split
    · rcases List.mem_cons.1 hm with rfl | hm
      · refine (draws_placeData _ _ _ _).ne_unset ?_
        rw [Grid.get_set_same hg _ hr hc]
        exact (assigned_cellOf _).ne_unset
      · exact ih _ (Grid.isSquare_set hg _ _ _) hm
    · rcases List.mem_cons.1 hm with rfl | hm
      · exact (draws_placeData _ _ _ _).ne_unset ‹_›
      · exact ih _ hg hm

/-- From a right column that starts a pair, the pairs reach every column below it but column 6. -/
theorem exists_mem_pairColumns (fuel : Nat) {col c : Nat} (hcol : (col % 2 = 0 ∧ 6 ≤ col) ∨ (col % 2 = 1 ∧ col ≤ 5))
    (hfuel : col ≤ fuel) (hc : c ≤ col) (h6 : c ≠ 6) : ∃ right ∈ pairColumns fuel col, c = right ∨ c = right - 1 := by
  induction fuel generalizing col with
  | zero => omega
  | succ fuel ih =>
    simp only [pairColumns]
    rw [if_neg (by omega)]
    generalize hr : (if col = 6 then 5 else col) = right
    have hright : right = 5 ∧ col = 6 ∨ right = col ∧ col ≠ 6 := by split at hr <;> omega
    by_cases hcr : c = right ∨ c = right - 1
    · exact ⟨right, List.mem_cons_self, hcr⟩
    · obtain ⟨x, hx, hcx⟩ := ih (col := right - 2) (by omega) (by omega) (by omega)
      exact ⟨x, List.mem_cons_of_mem _ hx, hcx⟩

/-- The sweep visits every cell of a symbol outside column 6 (`45_matrix.md` R242). -/
theorem mem_sweep {v r c : Nat} (hr : r < moduleCount v) (hc : c < moduleCount v) (h6 : c ≠ 6) :
    (r, c) ∈ sweep (moduleCount v) := by
  obtain ⟨right, hx, hcr⟩ := exists_mem_pairColumns (moduleCount v) (col := moduleCount v - 1) (c := c)
    (by simp only [moduleCount]; omega) (by omega) (by omega) h6
  obtain ⟨k, hk, hget⟩ := List.mem_iff_getElem.1 hx
  refine List.mem_flatMap.2 ⟨(right, k), List.mem_zipIdx_iff_getElem?.2 (by simp [hk, hget]), ?_⟩
  refine List.mem_flatMap.2 ⟨r, by split <;> simp [hr], ?_⟩
  rcases hcr with rfl | rfl <;> simp

/-- Every cell of a trial of a template is LIGHT or DARK (`45_matrix.md` R267). -/
theorem trialGrid_template_get (p : Params) {v : Nat} (hv : 1 ≤ v) (lvl : BitVec 2) (bits : List Bool) (m : Nat)
    (test : Bool) {r c : Nat} (hr : r < moduleCount v) (hc : c < moduleCount v) :
    Assigned ((trialGrid p v lvl bits m test (template p v)).get r c) := by
  have hset : (trialGrid p v lvl bits m test (template p v)).get r c ≠ cellUnset := by
    by_cases h6 : c = 6
    · subst h6
      exact (draws_trialGrid p v lvl bits m test _).ne_unset (template_column6 p hv hr)
    · exact placeData_sets m bits (placeVersion_isSquare _ _ _ _
        (Grid.isSquare_set (placeFormat_isSquare _ _ (template_isSquare p v)) _ _ _)) (mem_sweep hr hc h6) hr hc
  rcases draws_trialGrid p v lvl bits m test (template p v) r c with h | h
  · rw [h] at hset ⊢
    exact (template_get_cases p v r c).resolve_left hset
  · exact h

/-! ## TPL and FINAL -/

/-- TPL, read as a matrix, is the template it holds. -/
theorem State.TemplateHeld.matrixAt_eq {s : State} (h : s.TemplateHeld) (h0 : s.tplVer ≠ 0) :
    s.matrixAt .tpl (moduleCount s.tplVer.toNat) = template s.params s.tplVer.toNat := by
  obtain ⟨hv, hcell⟩ := h h0
  refine Grid.ext_of_isSquare (State.matrixAt_isSquare _ _ _) (template_isSquare _ _) fun r c hr hc => ?_
  rw [State.get_matrixAt s .tpl (by simp only [moduleCount]; omega) hr hc, hcell r c hr hc]

/-- The addresses of a symbol's cells in a matrix window. -/
theorem cellAddress_lt {v r c : Nat} (hv : v ≤ 40) (hr : r < moduleCount v) (hc : c < moduleCount v) :
    r * 177 + c < 0x8000 := by
  simp only [moduleCount] at hr hc
  omega

theorem templateHeld_of_cells {s t : State} (hp : t.params = s.params) (hv : t.tplVer = s.tplVer)
    (hm : ∀ a, 0x010000 ≤ a → a < 0x018000 → t.byteAt a = s.byteAt a) (h : s.TemplateHeld) : t.TemplateHeld := by
  intro h0
  rw [hv] at h0 ⊢
  obtain ⟨h40, hcell⟩ := h h0
  refine ⟨h40, fun r c hr hc => ?_⟩
  have := cellAddress_lt h40 hr hc
  rw [hp, ← hcell r c hr hc]
  exact hm _ (by simp only [Window.base]; omega) (by simp only [Window.base]; omega)

theorem finalComplete_of_cells {s t : State} (hv : t.finalVer = s.finalVer)
    (hm : ∀ a, 0x018000 ≤ a → a < 0x020000 → t.byteAt a = s.byteAt a) (h : s.FinalComplete) : t.FinalComplete := by
  intro h0
  rw [hv] at h0 ⊢
  obtain ⟨h40, hcell⟩ := h h0
  refine ⟨h40, fun r c hr hc => ?_⟩
  have := cellAddress_lt h40 hr hc
  have hb : t.cell .final r c = s.cell .final r c :=
    hm _ (by simp only [Window.base]; omega) (by simp only [Window.base]; omega)
  rw [hb]
  exact hcell r c hr hc

theorem footprint_not_tpl {p : Params} (hp : p.Fits) {i : Instr} (hi : i ≠ .mxTemplate) {a : Nat}
    (ha : 0x010000 ≤ a) (ha' : a < 0x018000) : a < (footprint p i).1 ∨ (footprint p i).2 ≤ a := by
  obtain ⟨hpoly, hbb, -⟩ := hp
  cases i with
  | mxTemplate => exact absurd rfl hi
  | _ => simp only [footprint, Params.bbBytes]; omega

theorem footprint_not_final {p : Params} (hp : p.Fits) {i : Instr} (hi : ∀ m b, i ≠ .mxCommit m b) {a : Nat}
    (ha : 0x018000 ≤ a) (ha' : a < 0x020000) : a < (footprint p i).1 ∨ (footprint p i).2 ≤ a := by
  obtain ⟨hpoly, hbb, -⟩ := hp
  cases i with
  | mxCommit m b => exact absurd rfl (hi m b)
  | _ => simp only [footprint, Params.bbBytes]; omega

theorem templateHeld_of_effect {s u : State} {i : Instr} (hp : s.params.Fits) (h : s.TemplateHeld) (he : Effect s i u) :
    u.TemplateHeld := by
  by_cases hi : i = .mxTemplate
  · subst hi
    cases he with
    | template hv =>
      exact fun _ => ⟨hv, fun r c hr hc =>
        State.cell_of_matrixMem (s := s) (.inl rfl) rfl (template_isSquare s.params s.resVersion.toNat)
          (by simp only [moduleCount]; omega) hr hc⟩
    | result hi => cases hi
    | poly hi => cases hi
    | append hi => cases hi
  · have hpu : u.params = s.params := by rw [he.frame]; rfl
    exact templateHeld_of_cells hpu (he.tplVer_eq hi)
      (fun a ha ha' => he.sameOutside a (footprint_not_tpl hp hi ha ha')) h

theorem finalComplete_of_commit {s u : State} {mask : Nat} {useBest : Bool} (ht : s.TemplateHeld)
    (he : Effect s (.mxCommit mask useBest) u) : u.FinalComplete := by
  cases he with
  | commit _ _ m h0 =>
    intro _
    obtain ⟨h40, -⟩ := ht h0
    have h1 : 1 ≤ s.tplVer.toNat := by
      rcases Nat.eq_zero_or_pos s.tplVer.toNat with hz | hz
      · exact absurd (BitVec.eq_of_toNat_eq (by simpa using hz)) h0
      · exact hz
    refine ⟨h40, fun r c hr hc => ?_⟩
    have hcell := State.cell_of_matrixMem (s := s) (t := s.storeFinal (trial s m false)) (.inr (.inl rfl)) rfl
      (trial_isSquare s m false) (by simp only [moduleCount]; omega) hr hc
    show (s.storeFinal (trial s m false)).cell .final r c = 0x01 ∨
      (s.storeFinal (trial s m false)).cell .final r c = 0x02
    rw [hcell, trial, ht.matrixAt_eq h0]
    exact trialGrid_template_get s.params h1 _ _ _ _ hr hc
  | result hi => cases hi
  | poly hi => cases hi
  | append hi => cases hi

theorem finalComplete_of_effect {s u : State} {i : Instr} (hp : s.params.Fits) (ht : s.TemplateHeld)
    (h : s.FinalComplete) (he : Effect s i u) : u.FinalComplete := by
  by_cases hi : ∃ m b, i = .mxCommit m b
  · obtain ⟨m, b, rfl⟩ := hi
    exact finalComplete_of_commit ht he
  · have hi : ∀ m b, i ≠ .mxCommit m b := fun m b h => hi ⟨m, b, h⟩
    exact finalComplete_of_cells (he.final_eq hi).1
      (fun a ha ha' => he.sameOutside a (footprint_not_final hp hi ha ha')) h

end Sys2Proof.Machine

/-! Commands and the host's side of the machine: what a command reads does not depend on it, and every rule gives the
same result beside another host's side. -/

namespace Sys2Proof.Machine

/-! ## What commands read -/

section
variable (s : State) (h : HostSide)

@[simp] theorem State.withHostSide_params : (s.withHostSide h).params = s.params := rfl
@[simp] theorem State.withHostSide_arg0 : (s.withHostSide h).arg0 = s.arg0 := rfl
@[simp] theorem State.withHostSide_bitLen : (s.withHostSide h).bitLen = s.bitLen := rfl
@[simp] theorem State.withHostSide_nseg : (s.withHostSide h).nseg = s.nseg := rfl
@[simp] theorem State.withHostSide_cfgLevel : (s.withHostSide h).cfgLevel = s.cfgLevel := rfl
@[simp] theorem State.withHostSide_resVersion : (s.withHostSide h).resVersion = s.resVersion := rfl
@[simp] theorem State.withHostSide_tplVer : (s.withHostSide h).tplVer = s.tplVer := rfl
@[simp] theorem State.withHostSide_best : (s.withHostSide h).best = s.best := rfl

@[simp] theorem State.bytesAt_withHostSide (base len : Nat) :
    (s.withHostSide h).bytesAt base len = s.bytesAt base len := rfl

@[simp] theorem State.matrixAt_withHostSide (w : Window) (n : Nat) :
    (s.withHostSide h).matrixAt w n = s.matrixAt w n := rfl

@[simp] theorem polyOperand_withHostSide (k : PReg) : polyOperand (s.withHostSide h) k = polyOperand s k := rfl

@[simp] theorem loadSegment_withHostSide (i : Nat) : loadSegment (s.withHostSide h) i = loadSegment s i := rfl

@[simp] theorem loadSegments_withHostSide (is : List Nat) : loadSegments (s.withHostSide h) is = loadSegments s is := by
  induction is with
  | nil => rfl
  | cons i rest ih => simp only [loadSegments, loadSegment_withHostSide, ih]

@[simp] theorem validate_withHostSide : validate (s.withHostSide h) = validate s := by
  simp only [validate, loadSegments_withHostSide]
  rfl

@[simp] theorem chooseVersion_withHostSide (gs : List Segment) :
    chooseVersion (s.withHostSide h) gs = chooseVersion s gs := rfl

@[simp] theorem trial_withHostSide (m : Nat) (test : Bool) : trial (s.withHostSide h) m test = trial s m test := rfl

@[simp] theorem checkTrial_withHostSide (m : Nat) : checkTrial (s.withHostSide h) m = checkTrial s m := rfl

end

/-! ## Rules -/

/-- The rule answers the same beside another host's side. -/
def HostBlind (rule : Rule) : Prop :=
  ∀ (s : State) (h : HostSide), rule (s.withHostSide h) = (rule s).map fun u => u.withHostSide h

/-- A check that fails on both sides or on neither. -/
theorem map_check {c : Prop} {inst inst' : Decidable c} {f : State → State} {e : ErrCode} {x y : Except ErrCode State}
    (h : x = y.map f) : (@ite _ c inst (.error e) x) = (@ite _ c inst' (.error e) y).map f := by
  by_cases hc : c
  · rw [if_pos hc, if_pos hc]; rfl
  · rw [if_neg hc, if_neg hc, h]

theorem hostBlind_gfLog : HostBlind ruleGfLog := fun s h => by
  simp only [ruleGfLog, State.withHostSide_arg0]
  cases glog s.arg0.toNat <;> rfl

theorem hostBlind_polyNorm (d : PReg) (shift : Nat) : HostBlind (rulePolyNorm d shift) := fun s h => by
  simp only [rulePolyNorm, polyOperand_withHostSide, State.withHostSide_params]
  cases polyOperand s d with
  | error e => rfl
  | ok p =>
    dsimp only
    cases norm s.params.polyMax p shift <;> rfl

theorem hostBlind_polyMul (d a b : PReg) : HostBlind (rulePolyMul d a b) := fun s h => by
  simp only [rulePolyMul, polyOperand_withHostSide, State.withHostSide_params]
  cases polyOperand s a with
  | error e => rfl
  | ok p =>
    dsimp only
    cases polyOperand s b with
    | error e => rfl
    | ok q =>
      dsimp only
      cases polyMul s.params.polyMax p q <;> rfl

theorem hostBlind_polyMod (d a b : PReg) : HostBlind (rulePolyMod d a b) := fun s h => by
  simp only [rulePolyMod, polyOperand_withHostSide]
  cases polyOperand s a with
  | error e => rfl
  | ok p =>
    dsimp only
    cases polyOperand s b with
    | error e => rfl
    | ok q =>
      dsimp only
      cases polyMod p q <;> rfl

theorem hostBlind_polyGen (d : PReg) (n : Nat) : HostBlind (rulePolyGen d n) := fun s h => by
  simp only [rulePolyGen, State.withHostSide_params]
  refine map_check ?_
  cases generator n <;> rfl

theorem hostBlind_segClassify (seg : Nat) : HostBlind (ruleSegClassify seg) := fun s h => by
  simp only [ruleSegClassify, loadSegment_withHostSide]
  cases loadSegment s seg <;> rfl

theorem hostBlind_segCost (seg : Nat) : HostBlind (ruleSegCost seg) := fun s h => by
  simp only [ruleSegCost, loadSegment_withHostSide, State.withHostSide_params, State.withHostSide_arg0]
  cases loadSegment s seg with
  | error e => rfl
  | ok g =>
    dsimp only
    cases bitCost s.params g.mode g.payload.length s.arg0.toNat <;> rfl

/-- Appending bits changes memory and BITLEN, which the host's side does not hold. -/
@[simp] theorem State.putBits_withHostSide (s : State) (h : HostSide) (bits : List Bool) :
    (s.withHostSide h).putBits bits = (s.putBits bits).withHostSide h := by
  induction bits generalizing s with
  | nil => rfl
  | cons b rest ih => exact ih (s.putBit b)

@[simp] theorem bbOverflows_withHostSide (s : State) (h : HostSide) (count : Nat) :
    bbOverflows (s.withHostSide h) count = bbOverflows s count := rfl

theorem hostBlind_segWrite (seg : Nat) : HostBlind (ruleSegWrite seg) := fun s h => by
  simp only [ruleSegWrite, loadSegment_withHostSide, State.withHostSide_params, State.withHostSide_resVersion,
    bbOverflows_withHostSide, State.putBits_withHostSide]
  cases loadSegment s seg with
  | error e => rfl
  | ok g =>
    dsimp only
    cases lenBits s.params g.mode s.resVersion.toNat with
    | error e => rfl
    | ok w =>
      dsimp only
      cases bbOverflows s (4 + w + contentBits g.mode g.payload.length) <;> rfl

theorem hostBlind_bbPut (width : Nat) : HostBlind (ruleBbPut width) := fun s h => by
  simp only [ruleBbPut, State.put, bbOverflows_withHostSide, State.withHostSide_arg0, State.putBits_withHostSide]
  split
  · rfl
  · cases bbOverflows s width <;> rfl

theorem hostBlind_bbEom (max : Nat) : HostBlind (ruleBbEom max) := fun s h => by
  simp only [ruleBbEom, State.put, bbOverflows_withHostSide, State.withHostSide_bitLen, State.putBits_withHostSide]
  split
  · cases bbOverflows s 4 <;> rfl
  · rfl

theorem hostBlind_bbPad (target : Nat) : HostBlind (ruleBbPad target) := fun s h => by
  simp only [ruleBbPad, State.withHostSide_bitLen, State.withHostSide_params, State.putBits_withHostSide]
  split <;> rfl

theorem hostBlind_ecInfo : HostBlind ruleEcInfo := fun s h => by
  simp only [ruleEcInfo, State.withHostSide_params, State.withHostSide_arg0, State.withHostSide_cfgLevel]
  cases ecLookup s.params s.arg0.toNat s.cfgLevel <;> rfl

theorem hostBlind_rsAssemble : HostBlind ruleRsAssemble := fun s h => by
  simp only [ruleRsAssemble, State.withHostSide_params, State.withHostSide_resVersion, State.withHostSide_cfgLevel,
    State.withHostSide_bitLen, State.bytesAt_withHostSide]
  cases ecLookup s.params s.resVersion.toNat s.cfgLevel with
  | error e => rfl
  | ok blocks =>
    dsimp only
    refine map_check (map_check ?_)
    cases allErrorCodewords blocks (splitData blocks (s.bytesAt Window.bb.base (capacity blocks / 8))) <;> rfl

theorem hostBlind_mxTemplate : HostBlind ruleMxTemplate := fun s h => by
  simp only [ruleMxTemplate, State.withHostSide_resVersion, State.withHostSide_params]
  cases checkVersion s.resVersion.toNat <;> rfl

theorem hostBlind_mxTrial (mask : Nat) (test : Bool) : HostBlind (ruleMxTrial mask test) := fun s h => by
  simp only [ruleMxTrial, checkTrial_withHostSide, trial_withHostSide]
  cases checkTrial s mask <;> rfl

theorem hostBlind_mxScore (mask : Nat) : HostBlind (ruleMxScore mask) := fun s h => by
  simp only [ruleMxScore, checkTrial_withHostSide, State.matrixAt_withHostSide, State.withHostSide_tplVer]
  cases checkTrial s mask <;> rfl

theorem evalLanes_withHostSide (s t : State) (h : HostSide) (ms : List Nat) :
    ms.foldl (evalLane (s.withHostSide h)) (t.withHostSide h) = (ms.foldl (evalLane s) t).withHostSide h := by
  induction ms generalizing t with
  | nil => rfl
  | cons m rest ih => exact ih (evalLane s t m)

theorem hostBlind_mxEval : HostBlind ruleMxEval := fun s h => by
  simp only [ruleMxEval, evalLanes_withHostSide, State.withHostSide_tplVer]
  split <;> rfl

theorem hostBlind_mxCommit (mask : Nat) (useBest : Bool) : HostBlind (ruleMxCommit mask useBest) := fun s h => by
  simp only [ruleMxCommit, checkTrial_withHostSide, trial_withHostSide, State.withHostSide_best]
  cases checkTrial s (if useBest = true then s.best.toNat else mask) <;> rfl

theorem hostBlind_mxRead : HostBlind ruleMxRead := fun _ _ => map_check rfl

theorem hostBlind_verSelect : HostBlind ruleVerSelect := fun s h => by
  simp only [ruleVerSelect, validate_withHostSide, chooseVersion_withHostSide]
  cases validate s with
  | error e => rfl
  | ok gs =>
    dsimp only
    cases chooseVersion s gs <;> rfl

theorem hostBlind_ruleOf (i : Instr) : HostBlind (ruleOf i) := by
  cases i with
  | nop => exact fun _ _ => rfl
  | gfLog => exact hostBlind_gfLog
  | gfExp => exact fun _ _ => rfl
  | polyNorm d shift => exact hostBlind_polyNorm d shift
  | polyMul d a b => exact hostBlind_polyMul d a b
  | polyMod d a b => exact hostBlind_polyMod d a b
  | polyGen d n => exact hostBlind_polyGen d n
  | segClassify seg => exact hostBlind_segClassify seg
  | segCost seg => exact hostBlind_segCost seg
  | segWrite seg => exact hostBlind_segWrite seg
  | bbClear => exact fun _ _ => rfl
  | bbPut width => exact hostBlind_bbPut width
  | bbEom max => exact hostBlind_bbEom max
  | bbPad target => exact hostBlind_bbPad target
  | ecInfo => exact hostBlind_ecInfo
  | rsAssemble => exact hostBlind_rsAssemble
  | mxTemplate => exact hostBlind_mxTemplate
  | mxTrial mask test => exact hostBlind_mxTrial mask test
  | mxScore mask => exact hostBlind_mxScore mask
  | mxEval => exact hostBlind_mxEval
  | mxCommit mask useBest => exact hostBlind_mxCommit mask useBest
  | mxRead => exact hostBlind_mxRead
  | verSelect => exact hostBlind_verSelect
  | encode => exact fun _ _ => rfl

/-! ## Commands -/

theorem hostBlind_encodeSteps {nseg : Nat} {rule : Rule} (hr : rule ∈ encodeSteps nseg) : HostBlind rule := by
  simp only [encodeSteps, List.mem_append, List.mem_cons, List.mem_map, List.not_mem_nil, or_false] at hr
  rcases hr with ((rfl | rfl) | ⟨k, -, rfl⟩) | rfl | rfl | rfl | rfl | rfl | rfl
  · exact hostBlind_verSelect
  · exact fun _ _ => rfl
  · exact hostBlind_segWrite k
  · exact fun s h => hostBlind_bbEom (encodeCapacity s) s h
  · exact fun s h => hostBlind_bbPad (encodeCapacity s) s h
  · exact hostBlind_rsAssemble
  · exact hostBlind_mxTemplate
  · exact hostBlind_mxEval
  · exact hostBlind_mxCommit 0 true

theorem runSteps_withHostSide {steps : List Rule} (hb : ∀ rule ∈ steps, HostBlind rule) (s : State) (h : HostSide) :
    runSteps steps (s.withHostSide h) = ((runSteps steps s).1.withHostSide h, (runSteps steps s).2) := by
  induction steps generalizing s with
  | nil => rfl
  | cons rule rest ih =>
    have hrule := hb rule List.mem_cons_self s h
    cases hr : rule s with
    | ok u =>
      rw [hr] at hrule
      rw [runSteps_cons_ok hr, runSteps_cons_ok hrule, ih fun r hm => hb r (List.mem_cons_of_mem _ hm)]
    | error e =>
      rw [hr] at hrule
      rw [runSteps_cons_error hr, runSteps_cons_error hrule]

theorem finishSteps_withHostSide (reached : State × Option ErrCode) (h : HostSide) :
    finishSteps (reached.1.withHostSide h, reached.2) = (finishSteps reached).withHostSide h := by
  obtain ⟨u, e⟩ := reached
  cases e <;> rfl

theorem complete_withHostSide {rule : Rule} (hb : HostBlind rule) {s t : State} (h : HostSide)
    (ht : complete s rule = .next t) : complete (s.withHostSide h) rule = .next (t.withHostSide h) := by
  rcases complete_cases ht with ⟨u, hu, rfl⟩ | ⟨e, he, rfl⟩
  · exact complete_ok ((hb s h).trans (congrArg (Except.map _) hu))
  · exact complete_error ((hb s h).trans (congrArg (Except.map _) he))

end Sys2Proof.Machine

/-! The host's view: where an access goes, the fields of a register word, and what reads and writes of registers do. -/

namespace Sys2Proof.Machine

/-! ## Where an access goes -/

theorem windowOf_expRom {a : Nat} (h : 0x001000 ≤ a ∧ a < 0x001100) : windowOf a = some .expRom := by
  simp only [windowOf]
  rw [if_neg (by omega), if_pos (by omega)]

theorem windowOf_logRom {a : Nat} (h : 0x001100 ≤ a ∧ a < 0x001200) : windowOf a = some .logRom := by
  simp only [windowOf]
  rw [if_neg (by omega), if_neg (by omega), if_pos (by omega)]

theorem windowOf_segDesc {a : Nat} (h : 0x002000 ≤ a ∧ a < 0x002080) : windowOf a = some .segDesc := by
  simp only [windowOf]
  rw [if_neg (by omega), if_neg (by omega), if_neg (by omega), if_neg (by omega), if_pos (by omega)]

theorem windowOf_data {a : Nat} (h : 0x004000 ≤ a ∧ a < 0x005000) : windowOf a = some .data := by
  simp only [windowOf]
  rw [if_neg (by omega), if_neg (by omega), if_neg (by omega), if_neg (by omega), if_neg (by omega), if_neg (by omega),
    if_neg (by omega), if_neg (by omega), if_pos (by omega)]

theorem windowOf_trials {a : Nat} (h : 0x020000 ≤ a ∧ a < 0x060000) :
    windowOf a = some (.trial ((a - 0x020000) / 0x8000)) :=
  windowOf_trial (by omega) (by omega)

/-- The windows from BB up. -/
theorem exists_window_above {a : Nat} (h : 0x005000 ≤ a ∧ a < 0x007000 ∨ 0x010000 ≤ a ∧ a < 0x060000) :
    ∃ w, windowOf a = some w ∧ w.hostWritable = false := by
  by_cases h1 : a < 0x006000
  · exact ⟨_, windowOf_eq_of_lt (by omega), rfl⟩
  by_cases h2 : a < 0x007000
  · exact ⟨_, windowOf_cw (by omega), rfl⟩
  by_cases h3 : a < 0x018000
  · exact ⟨_, windowOf_tpl (by omega), rfl⟩
  by_cases h4 : a < 0x020000
  · exact ⟨_, windowOf_final (by omega), rfl⟩
  · exact ⟨_, windowOf_trials (by omega), rfl⟩

theorem exists_window_rom {a : Nat} (h : 0x001000 ≤ a ∧ a < 0x001200) :
    ∃ w, windowOf a = some w ∧ w.hostWritable = false ∧ w.commandWritten = false := by
  by_cases h1 : a < 0x001100
  · exact ⟨_, windowOf_expRom (by omega), rfl, rfl⟩
  · exact ⟨_, windowOf_logRom (by omega), rfl, rfl⟩

theorem exists_window_hostWritable {a : Nat}
    (h : 0x002000 ≤ a ∧ a < 0x002080 ∨ 0x003000 ≤ a ∧ a < 0x003400 ∨ 0x004000 ≤ a ∧ a < 0x005000) :
    ∃ w, windowOf a = some w ∧ w.hostWritable = true := by
  rcases h with h | h | h
  · exact ⟨_, windowOf_segDesc h, rfl⟩
  · exact ⟨_, windowOf_pcoef h, rfl⟩
  · exact ⟨_, windowOf_data h, rfl⟩

@[simp] theorem State.busOffset_base (s : State) (a : BitVec 24) : s.busOffset (s.params.qrcBase + a) = a.toNat := by
  rw [State.busOffset, BitVec.add_comm, BitVec.add_sub_cancel]

theorem targetOf_window {width : Width} {a : Nat} {w : Window} (ha : a % width.bytes = 0) (hw : windowOf a = some w) :
    targetOf width a = .window w := by
  have hlow : ¬a < 0x000100 := fun h => by simp [windowOf, show a < 0x001000 by omega] at hw
  simp [targetOf, ha, hlow, hw]

theorem targetOf_reg {off : Nat} {r : Reg} (h : regAt off = some r) : targetOf .word off = .reg r := by
  unfold regAt at h
  split at h <;> cases h <;> rfl

theorem regAt_lt {off : Nat} {r : Reg} (h : regAt off = some r) : off < 0x000100 := by
  unfold regAt at h
  split at h <;> cases h <;> decide

theorem regAt_pen (m : Fin 8) : regAt (0x040 + 4 * m.val) = some (.pen m) := by
  revert m
  decide

theorem regAt_plen (k : Fin 4) : regAt (0x060 + 4 * k.val) = some (.plen k) := by
  revert k
  decide

theorem toNat_of_regAt {off : Nat} {r : Reg} (h : regAt off = some r) : (BitVec.ofNat 24 off).toNat = off := by
  have := regAt_lt h
  rw [BitVec.toNat_ofNat]
  omega

theorem State.busOffset_reg (s : State) {off : Nat} {r : Reg} (h : regAt off = some r) :
    s.busOffset (s.params.qrcBase + BitVec.ofNat 24 off) = off := by
  rw [State.busOffset_base, toNat_of_regAt h]

/-! ## Reads -/

theorem State.readResponse_reg (s : State) {off : Nat} {r : Reg} (h : regAt off = some r) :
    s.readResponse .word (s.params.qrcBase + BitVec.ofNat 24 off) = { data := s.hostReg r off, error := false } := by
  simp only [State.readResponse, s.busOffset_reg h, targetOf_reg h]

theorem State.hostReg_eq (s : State) {r : Reg} (a : Nat) (h : (s.busy && r.commandWritten) = false) :
    s.hostReg r a = s.readReg r := by
  simp [State.hostReg, h]

theorem State.readResponse_reg_stored (s : State) {off : Nat} {r : Reg} (hr : regAt off = some r)
    (h : (s.busy && r.commandWritten) = false) :
    s.readResponse .word (s.params.qrcBase + BitVec.ofNat 24 off) = { data := s.readReg r, error := false } := by
  rw [s.readResponse_reg hr, s.hostReg_eq off h]

/-- A byte read of a window finds the stored byte where no running command may write it. -/
theorem State.readResponse_byte (s : State) {a : BitVec 24} {w : Window} (hw : windowOf a.toNat = some w)
    (h : (s.busy && w.commandWritten) = false) :
    s.readResponse .byte (s.params.qrcBase + a) = { data := (s.byteAt a.toNat).setWidth 32, error := false } := by
  simp only [State.readResponse, State.busOffset_base, targetOf_window (width := .byte) (Nat.mod_one _) hw,
    State.hostByte, h, Width.bytes]
  simp [leWord]

/-- The windows whose bytes a read finds as stored: those no command writes, and while no command runs every one. -/
theorem State.exists_window_stored (s : State) {a : Nat}
    (h : 0x001000 ≤ a ∧ a < 0x001200 ∨ 0x002000 ≤ a ∧ a < 0x002080 ∨ 0x004000 ≤ a ∧ a < 0x005000 ∨
      s.busy = false ∧ (0x003000 ≤ a ∧ a < 0x003400 ∨ 0x005000 ≤ a ∧ a < 0x007000 ∨ 0x010000 ≤ a ∧ a < 0x060000)) :
    ∃ w, windowOf a = some w ∧ (s.busy && w.commandWritten) = false := by
  rcases h with h | h | h | ⟨hb, h | h⟩
  · obtain ⟨w, hw, -, hc⟩ := exists_window_rom h
    exact ⟨w, hw, by rw [hc, Bool.and_false]⟩
  · exact ⟨_, windowOf_segDesc h, Bool.and_false _⟩
  · exact ⟨_, windowOf_data h, Bool.and_false _⟩
  · exact ⟨_, windowOf_pcoef h, by rw [hb]; rfl⟩
  · obtain ⟨w, hw, -⟩ := exists_window_above h
    exact ⟨w, hw, by rw [hb]; rfl⟩

theorem extract_byte_of_setWidth (b : Byte) : (b.setWidth 32).extractLsb' 0 8 = b := by
  have := b.isLt
  refine BitVec.eq_of_toNat_eq ?_
  simp only [BitVec.extractLsb'_toNat, BitVec.toNat_setWidth, Nat.shiftRight_zero]
  omega

/-! ## Fields of a register word -/

theorem flagBit_toNat (b : Bool) {i : Nat} (hi : i < 32) : (flagBit b i).toNat = 2 ^ i * b.toNat := by
  cases b
  · simp [flagBit]
  · have := Nat.pow_lt_pow_right (a := 2) (by omega) hi
    simp [flagBit, Nat.mod_eq_of_lt this]

theorem fieldAt_toNat {w : Nat} (v : BitVec w) {lo : Nat} (h : lo + w ≤ 32) :
    (fieldAt w v lo).toNat = 2 ^ lo * v.toNat := by
  have hv : v.toNat * 2 ^ lo < 2 ^ 32 :=
    calc v.toNat * 2 ^ lo < 2 ^ w * 2 ^ lo := Nat.mul_lt_mul_of_pos_right v.isLt (Nat.two_pow_pos lo)
      _ = 2 ^ (w + lo) := (Nat.pow_add 2 w lo).symm
      _ ≤ 2 ^ 32 := Nat.pow_le_pow_right (by omega) (by omega)
  have hv' : v.toNat < 2 ^ 32 := lt_of_le_of_lt (Nat.le_mul_of_pos_right _ (Nat.two_pow_pos lo)) hv
  simp only [fieldAt, BitVec.toNat_shiftLeft, BitVec.toNat_setWidth, Nat.shiftLeft_eq]
  rw [Nat.mod_eq_of_lt hv', Nat.mod_eq_of_lt hv, Nat.mul_comm]

/-- A word put together from disjoint fields is their sum. -/
theorem toNat_or_of_lt {x y : Word} {lo n v : Nat} (hx : x.toNat = n) (hn : n < 2 ^ lo) (hy : y.toNat = 2 ^ lo * v) :
    (x ||| y).toNat = n + 2 ^ lo * v := by
  subst hx
  rw [BitVec.toNat_or, hy, Nat.lor_comm, ← Nat.two_pow_add_eq_or_of_lt hn, Nat.add_comm]

theorem toNat_or_flagBit {x : Word} {n i : Nat} (b : Bool) (hx : x.toNat = n) (hn : n < 2 ^ i) (hi : i < 32) :
    (x ||| flagBit b i).toNat = n + 2 ^ i * b.toNat :=
  toNat_or_of_lt hx hn (flagBit_toNat b hi)

theorem toNat_or_fieldAt {x : Word} {n lo w : Nat} (v : BitVec w) (hx : x.toNat = n) (hn : n < 2 ^ lo)
    (h : lo + w ≤ 32) : (x ||| fieldAt w v lo).toNat = n + 2 ^ lo * v.toNat :=
  toNat_or_of_lt hx hn (fieldAt_toNat v h)

theorem State.ctrlWord_toNat (s : State) : s.ctrlWord.toNat = s.ieDone.toNat + 2 * s.ieErr.toNat := by
  have h0 := flagBit_toNat s.ieDone (i := 0) (by omega)
  have := s.ieDone.toNat_le
  have h1 := toNat_or_flagBit (i := 1) s.ieErr h0 (by omega) (by omega)
  rw [State.ctrlWord, h1]
  omega

theorem State.statusWord_toNat (s : State) : s.statusWord.toNat =
    s.busy.toNat + 2 * s.done.toNat + 4 * s.err.toNat + 8 * s.coll.toNat + 2 ^ 8 * s.errCode.toNat +
      2 ^ 16 * s.lastOp.toNat := by
  have hb := s.busy.toNat_le
  have hd := s.done.toNat_le
  have he := s.err.toNat_le
  have hc := s.coll.toNat_le
  have hcode := s.errCode.isLt
  have h0 := flagBit_toNat s.busy (i := 0) (by omega)
  have h1 := toNat_or_flagBit (i := 1) s.done h0 (by omega) (by omega)
  have h2 := toNat_or_flagBit (i := 2) s.err h1 (by omega) (by omega)
  have h3 := toNat_or_flagBit (i := 3) s.coll h2 (by omega) (by omega)
  have h4 := toNat_or_fieldAt (lo := 8) s.errCode h3 (by omega) (by omega)
  have h5 := toNat_or_fieldAt (lo := 16) s.lastOp h4 (by omega) (by omega)
  rw [State.statusWord, h5]
  omega

theorem State.cfgWord_toNat (s : State) :
    s.cfgWord.toNat = s.cfgVersion.toNat + 2 ^ 8 * s.cfgLevel.toNat + 2 ^ 16 * s.cfgMaxVer.toNat := by
  have hv := s.cfgVersion.isLt
  have hl := s.cfgLevel.isLt
  have h0 := fieldAt_toNat s.cfgVersion (lo := 0) (by omega)
  have h1 := toNat_or_fieldAt (lo := 8) s.cfgLevel h0 (by omega) (by omega)
  have h2 := toNat_or_fieldAt (lo := 16) s.cfgMaxVer h1 (by omega) (by omega)
  rw [State.cfgWord, h2]
  omega

theorem State.resWord_toNat (s : State) :
    s.resWord.toNat = s.resVersion.toNat + 2 ^ 8 * s.resMode.toNat + 2 ^ 16 * s.resMask.toNat := by
  have hv := s.resVersion.isLt
  have hm := s.resMode.isLt
  have h0 := fieldAt_toNat s.resVersion (lo := 0) (by omega)
  have h1 := toNat_or_fieldAt (lo := 8) s.resMode h0 (by omega) (by omega)
  have h2 := toNat_or_fieldAt (lo := 16) s.resMask h1 (by omega) (by omega)
  rw [State.resWord, h2]
  omega

theorem State.ecInfoWord_toNat (s : State) :
    s.ecInfoWord.toNat = s.ecNBlocks.toNat + 2 ^ 8 * s.ecEcpb.toNat + 2 ^ 16 * s.ecTotal.toNat := by
  have hn := s.ecNBlocks.isLt
  have he := s.ecEcpb.isLt
  have h0 := fieldAt_toNat s.ecNBlocks (lo := 0) (by omega)
  have h1 := toNat_or_fieldAt (lo := 8) s.ecEcpb h0 (by omega) (by omega)
  have h2 := toNat_or_fieldAt (lo := 16) s.ecTotal h1 (by omega) (by omega)
  rw [State.ecInfoWord, h2]
  omega

theorem fieldAt_zero_toNat {w : Nat} (v : BitVec w) (h : w ≤ 32) : (fieldAt w v 0).toNat = v.toNat := by
  rw [fieldAt_toNat v (by omega), Nat.pow_zero, Nat.one_mul]

/-! ## Reserved bits -/

/-- The bits of a register that can read 1: its fields, but SOFT_RESET and CMD read 0 (`10_state.md` R22, R28, R43). -/
def Reg.readMask : Reg → Word
  | .ctrl => 0x00000003
  | .cmd => 0
  | r => r.fields

theorem flagBit_and {b : Bool} {i : Nat} {m : Word} (h : flagBit true i &&& m = flagBit true i) :
    flagBit b i &&& m = flagBit b i := by
  cases b
  · exact BitVec.zero_and
  · exact h

theorem fieldAt_and {w : Nat} {v : BitVec w} {lo : Nat} {m : Word}
    (h : fieldAt w (BitVec.allOnes w) lo &&& m = fieldAt w (BitVec.allOnes w) lo) :
    fieldAt w v lo &&& m = fieldAt w v lo := by
  refine BitVec.eq_of_getLsbD_eq fun i hi => ?_
  have hbit := congrArg (fun x : Word => x.getLsbD i) h
  simp only [fieldAt, BitVec.getLsbD_and, BitVec.getLsbD_shiftLeft, BitVec.getLsbD_setWidth,
    BitVec.getLsbD_allOnes] at hbit ⊢
  by_cases hw : i - lo < w
  · by_cases hlo : i < lo <;> simp_all
  · simp [BitVec.getLsbD_of_ge v _ (Nat.le_of_not_lt hw)]

theorem or_and_eq {x y m : Word} (hx : x &&& m = x) (hy : y &&& m = y) : (x ||| y) &&& m = x ||| y := by
  refine BitVec.eq_of_getLsbD_eq fun i _ => ?_
  have hx := congrArg (fun z : Word => z.getLsbD i) hx
  have hy := congrArg (fun z : Word => z.getLsbD i) hy
  simp only [BitVec.getLsbD_and, BitVec.getLsbD_or] at hx hy ⊢
  rw [Bool.and_or_distrib_right, hx, hy]

/-- A register reads 1 only in the bits of its read mask. -/
theorem State.readReg_and_readMask (s : State) (r : Reg) : s.readReg r &&& r.readMask = s.readReg r := by
  cases r with
  | ctrl => exact or_and_eq (flagBit_and (by decide)) (flagBit_and (by decide))
  | status =>
    exact or_and_eq (or_and_eq (or_and_eq (or_and_eq (or_and_eq (flagBit_and (by decide)) (flagBit_and (by decide)))
      (flagBit_and (by decide))) (flagBit_and (by decide))) (fieldAt_and (by decide))) (fieldAt_and (by decide))
  | cfg => exact or_and_eq (or_and_eq (fieldAt_and (by decide)) (fieldAt_and (by decide))) (fieldAt_and (by decide))
  | res => exact or_and_eq (or_and_eq (fieldAt_and (by decide)) (fieldAt_and (by decide))) (fieldAt_and (by decide))
  | id | cmd => simp only [State.readReg, Reg.readMask]; decide
  | arg0 | arg1 | result | ecInfo | pen => exact BitVec.and_allOnes
  | plen k => exact fieldAt_and (m := 0x000001FF) (by decide)
  | bitLen | cwLen | nseg | tplVer | finalVer | best => exact fieldAt_and (by decide)

theorem State.hostReg_and_readMask (s : State) (r : Reg) (a : Nat) : s.hostReg r a &&& r.readMask = s.hostReg r a := by
  simp only [State.hostReg]
  split
  · rename_i h
    have hm : r.readMask = r.fields := by
      cases r with
      | ctrl | cmd => simp [Reg.commandWritten] at h
      | _ => rfl
    rw [hm, BitVec.and_assoc, BitVec.and_self]
  · exact s.readReg_and_readMask r

/-- The bits a register does not have read 0, also while BUSY. -/
theorem State.hostReg_reserved (s : State) {r : Reg} {m : Word} (a : Nat) (h : r.readMask &&& m = 0) :
    s.hostReg r a &&& m = 0 := by
  rw [← s.hostReg_and_readMask r a, BitVec.and_assoc, h]
  exact BitVec.and_zero

/-! ## Writes -/

theorem State.hostWrite_of_target (s : State) {width : Width} {a : BitVec 24} (value : Word)
    (h : targetOf width a.toNat ≠ .busError) :
    s.hostWrite width (s.params.qrcBase + a) value =
      { s.writeEffect width a.toNat value with response := some { data := 0, error := false } } := by
  simp only [State.hostWrite, State.busOffset_base, if_neg h]
  rfl

theorem State.writeEffect_reg (s : State) {off : Nat} {r : Reg} (w : Word) (h : regAt off = some r) :
    s.writeEffect .word off w = if s.busy && r.droppedWhileBusy then s.collide else s.writeReg r w := by
  simp only [State.writeEffect, targetOf_reg h]

theorem State.writeEffect_window (s : State) {width : Width} {a : Nat} {w : Window} (value : Word)
    (ha : a % width.bytes = 0) (hw : windowOf a = some w) :
    s.writeEffect width a value =
      if w.hostWritable then if s.busy then s.collide else s.setBytes a (leBytes width.bytes value) else s := by
  simp only [State.writeEffect, targetOf_window ha hw]

/-- The registers a write leaves as they are (`10_state.md` R43). -/
def Reg.readOnly : Reg → Bool
  | .id | .result | .bitLen | .cwLen | .res | .tplVer | .finalVer | .ecInfo | .best | .pen _ => true
  | .ctrl | .status | .cmd | .cfg | .arg0 | .arg1 | .nseg | .plen _ => false

theorem State.writeEffect_readOnly (s : State) {off : Nat} {r : Reg} (w : Word) (h : regAt off = some r)
    (hr : r.readOnly = true) : s.writeEffect .word off w = s := by
  rw [s.writeEffect_reg w h]
  cases r <;> simp [Reg.readOnly, Reg.droppedWhileBusy, State.writeReg] at hr ⊢

/-- Every entry of a table of registers is a register with the property checked of the table. -/
theorem exists_regAt_of_mem {α : Type} {table : List α} {off : α → Nat} {p : α → Reg → Bool}
    (ht : (table.all fun x => (regAt (off x)).any (p x)) = true) {x : α} (hx : x ∈ table) :
    ∃ r, regAt (off x) = some r ∧ p x r = true := by
  have h := List.all_eq_true.1 ht x hx
  cases hr : regAt (off x) with
  | none => simp [hr] at h
  | some r => exact ⟨r, rfl, by simpa [hr] using h⟩

theorem resetWith_readReg (p : Params) (r : Reg) : (State.resetWith p).readReg r = State.reset.readReg r := by
  cases r <;> rfl

set_option maxRecDepth 20000 in
theorem default_params_fit : Params.default.Fits := by decide

theorem reset_bufferTailZero : State.reset.BufferTailZero := fun k _ hk => by
  rw [State.bbBit, State.byteAt_bb_unlisted (by omega) rfl]
  exact BitVec.getLsbD_zero

end Sys2Proof.Machine

/-! The statements about the state, each from the lemmas above. -/

namespace Sys2Proof.Machine

/-- Settles O57: a report or an acceptance writes STATUS whole, and the host's clearing of ERR clears its code. -/
theorem stepKeepsStatusConsistent : Obligations.StepKeepsStatusConsistent := by
  intro s t hs h
  rcases step_cases h with ⟨f, i, -, -, -, he⟩ | ⟨f, e, -, -, -, rfl⟩ | ⟨-, rfl⟩ | ⟨f, hf, -, rfl⟩
  · exact statusConsistent_of_exec hs he
  · exact ⟨nofun, fun _ => ⟨.illegal, rfl⟩, nofun⟩
  · exact statusConsistent_of_hostStep hs
  · obtain ⟨h0, h1, h2⟩ := hs
    have hb : s.busy = true := by simp [State.busy, hf]
    exact statusConsistent_of_hostStep ⟨h0, h1, fun _ => h2 hb⟩

/-- Settles O58: the two invariants together, since BB_CLEAR zeroes only the bytes below BB_MAX_BITS. -/
theorem stepKeepsBuffer : Obligations.StepKeepsBuffer := by
  intro s t hr ht h
  refine step_keeps (P := fun s => s.RegistersBounded ∧ s.BufferTailZero) (fun ho ⟨hr, ht⟩ => ⟨?_, ?_⟩)
    (fun ⟨hr, _⟩ => ⟨⟨hr.1, by simp [State.softReset, State.resetWith]⟩, fun k _ hk => ?_⟩)
    (fun ⟨hr, ht⟩ he => ⟨registersBounded_of_effect hr he, bufferTailZero_of_effect hr ht he⟩) ⟨hr, ht⟩ h
  · rw [State.RegistersBounded, ho.params, ho.bitLen, ho.cwLen, ho.resVersion, ho.resMode, ho.tplVer, ho.finalVer]
    exact hr
  · intro k hle hk
    rw [ho.bitLen] at hle
    rw [State.bbBit_congr (ho.byteAt _ (by omega))]
    exact ht k hle hk
  · rw [State.bbBit, State.byteAt_bb_unlisted (by omega) rfl]
    exact BitVec.getLsbD_zero

/-- Settles O59: MX_TEMPLATE stores the template, MX_COMMIT a trial of it, whose cells are all set, and nothing else
writes either window. -/
theorem stepKeepsMatrices : Obligations.StepKeepsMatrices := by
  intro s t hp ht hf h
  refine step_keeps (P := fun s => s.params.Fits ∧ s.TemplateHeld ∧ s.FinalComplete)
    (fun ho ⟨hp, ht, hf⟩ => ⟨ho.params ▸ hp,
      templateHeld_of_cells ho.params ho.tplVer (fun a ha _ => ho.byteAt a (by omega)) ht,
      finalComplete_of_cells ho.finalVer (fun a ha _ => ho.byteAt a (by omega)) hf⟩)
    (fun ⟨hp, _, _⟩ => ⟨hp, fun h0 => absurd rfl h0, fun h0 => absurd rfl h0⟩)
    (fun {i s u} ⟨hp, ht, hf⟩ he => ⟨?_, templateHeld_of_effect hp ht he, finalComplete_of_effect hp ht hf he⟩)
    ⟨hp, ht, hf⟩ h
  rw [he.frame]
  exact hp

/-- Settles O44: a rule checks before it writes, and ENCODE's error comes before its commit. -/
theorem errorsArePrecise : Obligations.ErrorsArePrecise := by
  refine ⟨fun i s t hi herr h => ?_, fun s t hp herr h hterr => ?_⟩
  · obtain ⟨u, he, rfl⟩ | ⟨e, rfl⟩ := exec_cases hi h
    · right
      rw [he.frame]
      exact ⟨herr, rfl, rfl, rfl⟩
    · exact .inl ⟨rfl, rfl, e, rfl⟩
  · rw [exec_encode, completeSteps, Host.Outcome.next.injEq] at h
    rcases hr : runSteps (encodeSteps s.nseg.toNat) s with ⟨u, o⟩
    cases o with
    | some e =>
      rw [hr] at h
      subst h
      obtain ⟨-, hfin, hmask, hres, hpl, hm⟩ := runSteps_encode_error hr ▸ encodePrefix_keeps hp s.nseg.toNat
      exact ⟨hfin, hmask, hres, hpl, hm⟩
    | none =>
      have hf : u = s.withOutputs u := by simpa only [hr] using runSteps_encode_frame s s.nseg.toNat
      rw [hr] at h
      have hu : u.err = s.err := by rw [hf]; rfl
      subst h
      exact absurd (hterr.symm.trans (hu.trans herr)) nofun

/-- Settles O45: an effect changes RESULT only where the command is one of the seven, and ENCODE runs none of them. -/
theorem onlySevenWriteResult : Obligations.OnlySevenWriteResult := by
  intro i s t h
  cases hi : writesResult i with
  | true => cases i <;> simp [writesResult] at hi ⊢
  | false =>
    have hr : ∀ j, Runs i j → writesResult j = false := fun j hj => by
      by_cases he : i = .encode
      · rw [Runs, if_pos he] at hj
        exact (writes_of_isEncodeStep hj).1
      · rw [Runs, if_neg he] at hj
        exact hj ▸ hi
    obtain ⟨u, hu, rfl | ⟨e, rfl⟩⟩ := exec_reaches (P := fun u => u.result = s.result) h rfl
      fun j u v hj hu he => (he.result_eq (hr j hj)).trans hu
    all_goals exact .inr (.inr (.inr (.inr (.inr (.inr (.inr hu))))))

/-- Settles O46: the frame of every effect, and footprints that hold no host-written memory. -/
theorem commandsKeepHostState : Obligations.CommandsKeepHostState := by
  intro i s t h
  obtain ⟨u, ⟨hf, hm⟩, ht⟩ := exec_reaches h
    (P := fun u => u = s.withOutputs u ∧
      (s.params.Fits → ∀ a, a < 0x003000 ∨ 0x004000 ≤ a ∧ a < 0x005000 → u.byteAt a = s.byteAt a))
    ⟨rfl, fun _ _ _ => rfl⟩ fun j u v _ ⟨hf, hm⟩ he =>
      ⟨State.withOutputs_trans hf he.frame, fun hp a ha => by
        have hpu : u.params = s.params := by rw [hf]; rfl
        exact (he.sameOutside a (footprint_not_host (hpu ▸ hp) j ha)).trans (hm hp a ha)⟩
  have hregs : u.arg0 = s.arg0 ∧ u.arg1 = s.arg1 ∧ u.cfgVersion = s.cfgVersion ∧ u.cfgLevel = s.cfgLevel ∧
      u.cfgMaxVer = s.cfgMaxVer ∧ u.nseg = s.nseg ∧ u.ieDone = s.ieDone ∧ u.ieErr = s.ieErr ∧ u.coll = s.coll ∧
      u.lastOp = s.lastOp ∧ u.params = s.params ∧ u.hostQueue = s.hostQueue ∧ u.response = s.response := by
    rw [hf]
    exact ⟨rfl, rfl, rfl, rfl, rfl, rfl, rfl, rfl, rfl, rfl, rfl, rfl, rfl⟩
  obtain ⟨h1, h2, h3, h4, h5, h6, h7, h8, h9, h10, h11, h12, h13⟩ := hregs
  rcases ht with rfl | ⟨e, rfl⟩ <;> exact ⟨h1, h2, h3, h4, h5, h6, h7, h8, h9, h10, h11, h12, h13, hm⟩

/-- Settles O47: each register is kept by every effect but those of its writers, and only the polynomial commands have
a footprint below BB. -/
theorem registerWriters : Obligations.RegisterWriters := by
  intro i s t h hi
  obtain ⟨u, he, rfl⟩ | ⟨e, rfl⟩ := exec_cases hi h
  · refine ⟨or_iff_not_imp_left.2 he.cwLen_eq, or_iff_not_imp_left.2 he.tplVer_eq,
      or_iff_not_imp_left.2 fun hc => he.final_eq fun m b hm => hc ⟨m, b, hm⟩,
      or_iff_not_imp_left.2 fun h1 => or_iff_not_imp_left.2 fun h2 => he.ecInfo_eq h1 h2,
      or_iff_not_imp_left.2 he.res_eq, or_iff_not_imp_left.2 he.best_eq,
      or_iff_not_imp_left.2 fun h1 => or_iff_not_imp_left.2 fun h2 => he.pen_eq h1 fun m hm => h2 ⟨m, hm⟩, ?_⟩
    cases hd : polyDest i with
    | some d => cases i <;> simp [polyDest] at hd ⊢
    | none =>
      refine .inr (.inr (.inr (.inr ⟨he.plen_eq hd, fun a ha => ?_⟩)))
      rcases ha with ha | ha
      · exact he.sameOutside a (footprint_below_bb hd ha)
      · have hr : u.draws.resets = s.draws.resets := by rw [he.frame]; rfl
        exact State.byteAt_unmapped hr (windowOf_eq_none_of_le ha)
  · exact ⟨.inr rfl, .inr rfl, .inr ⟨rfl, rfl⟩, .inr (.inr ⟨rfl, rfl, rfl⟩), .inr ⟨rfl, rfl⟩, .inr rfl,
      .inr (.inr rfl), .inr (.inr (.inr (.inr ⟨rfl, fun _ _ => rfl⟩)))⟩

/-- Settles O48: no rule, and no step of ENCODE, reads or writes the host's side. -/
theorem commandsIgnoreHostSide : Obligations.CommandsIgnoreHostSide := by
  intro i s t h ht
  by_cases hi : i = .encode
  · subst hi
    rw [exec_encode, completeSteps, Host.Outcome.next.injEq] at ht
    rw [exec_encode, completeSteps, Host.Outcome.next.injEq, State.withHostSide_nseg,
      runSteps_withHostSide (fun _ => hostBlind_encodeSteps), finishSteps_withHostSide, ht]
  · rw [exec_eq_complete hi] at ht ⊢
    exact complete_withHostSide (hostBlind_ruleOf i) h ht

/-- Settles O52: such an access reaches a window or register whose write is ignored, or while BUSY dropped. -/
theorem ignoredAndDroppedWrites : Obligations.IgnoredAndDroppedWrites := by
  refine ⟨fun s width a value ha h => ⟨0, ?_⟩, fun s off value h => ⟨0, ?_⟩, fun s width a value hb ha h => ⟨0, ?_⟩⟩
  · obtain ⟨w, hw, hro⟩ : ∃ w, windowOf a.toNat = some w ∧ w.hostWritable = false := by
      rcases h with h | h
      · obtain ⟨w, hw, hro, -⟩ := exists_window_rom h
        exact ⟨w, hw, hro⟩
      · exact exists_window_above h
    rw [s.hostWrite_of_target value (by rw [targetOf_window ha hw]; nofun), s.writeEffect_window value ha hw, hro]
    rfl
  · obtain ⟨r, (hr : regAt off = some r), hro⟩ :=
      exists_regAt_of_mem (off := id) (p := fun _ => Reg.readOnly) (by decide) h
    have hoff := toNat_of_regAt hr
    rw [s.hostWrite_of_target value (by rw [hoff, targetOf_reg hr]; nofun), hoff, s.writeEffect_readOnly value hr hro]
  · have hdrop : targetOf width a.toNat ≠ .busError ∧ s.writeEffect width a.toNat value = s.collide := by
      rcases h with ⟨rfl, h⟩ | h
      · obtain ⟨r, (hr : regAt a.toNat = some r), hd⟩ :=
          exists_regAt_of_mem (off := id) (p := fun _ => Reg.droppedWhileBusy) (by decide) h
        exact ⟨by rw [targetOf_reg hr]; nofun, by rw [s.writeEffect_reg value hr, hb, hd]; rfl⟩
      · obtain ⟨w, hw, hrw⟩ := exists_window_hostWritable h
        exact ⟨by rw [targetOf_window ha hw]; nofun, by rw [s.writeEffect_window value ha hw, hrw, hb]; rfl⟩
    rw [s.hostWrite_of_target value hdrop.1, hdrop.2]
    rfl

/-- Settles O54: a read finds the register or window at its offset, and a register's word is the sum of its fields. -/
theorem registerAndWindowReads : Obligations.RegisterAndWindowReads := by
  refine ⟨fun s => ?_, fun s off h4 hlt => ?_, fun s a h => ?_,
    fun s width a => ⟨rfl, fun b => ?_, fun hb width' a' => ?_⟩, fun s off reserved h => ?_⟩
  · have hhost : ∀ {off : Nat} {r : Reg}, regAt off = some r → r.commandWritten = false →
        (s.readResponse .word (s.params.qrcBase + BitVec.ofNat 24 off)).data = s.readReg r :=
      fun hr h => by rw [s.readResponse_reg_stored hr (by rw [h, Bool.and_false])]
    refine ⟨hhost (r := .id) rfl rfl,
      (congrArg BitVec.toNat (hhost (r := .ctrl) rfl rfl)).trans s.ctrlWord_toNat,
      (congrArg BitVec.toNat (hhost (r := .status) rfl rfl)).trans s.statusWord_toNat,
      hhost (r := .cmd) rfl rfl,
      (congrArg BitVec.toNat (hhost (r := .cfg) rfl rfl)).trans s.cfgWord_toNat,
      hhost (r := .arg0) rfl rfl,
      hhost (r := .arg1) rfl rfl,
      (congrArg BitVec.toNat (hhost (r := .nseg) rfl rfl)).trans (fieldAt_zero_toNat s.nseg (by omega)), fun hb => ?_⟩
    have hidle : ∀ {off : Nat} {r : Reg}, regAt off = some r →
        (s.readResponse .word (s.params.qrcBase + BitVec.ofNat 24 off)).data = s.readReg r :=
      fun hr => by rw [s.readResponse_reg_stored hr (by rw [hb]; rfl)]
    exact ⟨hidle (r := .result) rfl,
      (congrArg BitVec.toNat (hidle (r := .bitLen) rfl)).trans (fieldAt_zero_toNat s.bitLen (by omega)),
      (congrArg BitVec.toNat (hidle (r := .cwLen) rfl)).trans (fieldAt_zero_toNat s.cwLen (by omega)),
      (congrArg BitVec.toNat (hidle (r := .res) rfl)).trans s.resWord_toNat,
      (congrArg BitVec.toNat (hidle (r := .tplVer) rfl)).trans (fieldAt_zero_toNat s.tplVer (by omega)),
      (congrArg BitVec.toNat (hidle (r := .finalVer) rfl)).trans (fieldAt_zero_toNat s.finalVer (by omega)),
      (congrArg BitVec.toNat (hidle (r := .ecInfo) rfl)).trans s.ecInfoWord_toNat,
      (congrArg BitVec.toNat (hidle (r := .best) rfl)).trans (fieldAt_zero_toNat s.best (by omega)),
      fun m => hidle (regAt_pen m),
      fun k => (congrArg BitVec.toNat (hidle (regAt_plen k))).trans (fieldAt_zero_toNat (s.plen.get k) (by omega))⟩
  · have hreg : ∀ off, off < 0x70 → off % 4 = 0 → (regAt off).isSome = true := by decide
    obtain ⟨r, hr⟩ := Option.isSome_iff_exists.1 (hreg off hlt h4)
    rw [s.readResponse_reg hr]
  · obtain ⟨w, hw, hstored⟩ := s.exists_window_stored h
    rw [s.readResponse_byte hw hstored]
    exact ⟨rfl, extract_byte_of_setWidth _⟩
  · simp only [State.hostRead]
    split <;> rfl
  · rw [State.hostRead, if_neg (by rw [hb]; nofun)]
    rfl
  · obtain ⟨r, (hr : regAt off = some r), hm⟩ :=
      exists_regAt_of_mem (off := Prod.fst) (p := fun x r => r.readMask &&& x.2 == 0) (by decide) h
    rw [s.readResponse_reg hr]
    exact s.hostReg_reserved off (eq_of_beq hm)

/-- Settles O49: the register table by evaluation, BB by what an unlisted byte reads as. -/
theorem resetValues : Obligations.ResetValues := by
  refine ⟨fun p off value h => ?_, fun p => ⟨rfl, rfl, fun i hi => State.byteAt_bb_unlisted (by omega) rfl⟩, rfl,
    Memory.wf_nil, ⟨fun _ => rfl, nofun, nofun⟩, ⟨default_params_fit, by decide⟩, reset_bufferTailZero,
    fun h0 => absurd rfl h0, fun h0 => absurd rfl h0⟩
  obtain ⟨r, (hr : regAt off = some r), hv⟩ :=
    exists_regAt_of_mem (off := Prod.fst) (p := fun x r => State.reset.readReg r == x.2) (by decide) h
  have := (State.resetWith p).readResponse_reg_stored hr rfl
  rw [resetWith_readReg, eq_of_beq hv] at this
  exact this

/-- Settles O53: each register's write at its offset, where BUSY does not drop it. -/
theorem registerWrites : Obligations.RegisterWrites := by
  intro s w
  have hwrite : ∀ {off : Nat} {r : Reg}, regAt off = some r → (s.busy && r.droppedWhileBusy) = false →
      s.writeEffect .word off w = s.writeReg r w := fun hr hd => by rw [s.writeEffect_reg w hr, hd]; rfl
  refine ⟨fun hb => ⟨Config.latency s.draws.accepted, hwrite (r := .cmd) rfl (by rw [hb]; rfl)⟩,
    hwrite (r := .status) rfl (Bool.and_false _), fun h31 => ?_, fun h31 => ⟨s.softReset.draws, ?_⟩, fun hb => ?_⟩
  · exact (hwrite (r := .ctrl) rfl (Bool.and_false _)).trans (by rw [State.writeReg, State.writeCtrl, h31]; rfl)
  · exact (hwrite (r := .ctrl) rfl (Bool.and_false _)).trans (by rw [State.writeReg, State.writeCtrl, h31]; rfl)
  · have hd : ∀ r : Reg, (s.busy && r.droppedWhileBusy) = false := fun r => by rw [hb]; rfl
    exact ⟨hwrite (r := .cfg) rfl (hd _), hwrite (r := .arg0) rfl (hd _), hwrite (r := .arg1) rfl (hd _),
      hwrite (r := .nseg) rfl (hd _), fun k => hwrite (regAt_plen k) (hd _)⟩

end Sys2Proof.Machine

/-! Memory stays in its canonical form: every effect of a command and of a host access goes through an operation of
memory that keeps it. -/

namespace Sys2Proof.Machine

/-- Unlisting a range keeps the canonical form. -/
theorem Memory.wf_replace_nil {m : List Host.Cell} (base len : Nat) (h : Memory.wf m) :
    Memory.wf (Memory.replace m base len []) :=
  Memory.wf_replace h Memory.wf_nil fun _ hc => absurd hc List.not_mem_nil

theorem memoryCanonical_of_storeTrial {s : State} {m : Nat} (hm : m < 8) (g : Grid) (h : s.MemoryCanonical) :
    (s.storeTrial m g).MemoryCanonical :=
  State.matrixMem_wf (.inr (.inr ⟨m, hm, rfl⟩)) g h

theorem memoryCanonical_of_evalLanes (s : State) {t : State} {ms : List Nat} (hms : ∀ m ∈ ms, m < 8)
    (h : t.MemoryCanonical) : (ms.foldl (evalLane s) t).MemoryCanonical := by
  induction ms generalizing t with
  | nil => exact h
  | cons m rest ih =>
    exact ih (fun k hk => hms k (List.mem_cons_of_mem _ hk))
      (memoryCanonical_of_storeTrial (hms m List.mem_cons_self) (trial s m true) h)

theorem Effect.memoryCanonical {s u : State} {i : Instr} (he : Effect s i u) (h : s.MemoryCanonical) :
    u.MemoryCanonical := by
  cases he with
  | nop | result | ecInfo | score | select => exact h
  | poly _ r _ => exact Memory.wf_setBytes _ r h
  | append _ bits _ => exact s.putBits_wf bits h
  | clear => exact Memory.wf_replace_nil _ _ h
  | assemble _ bytes _ => exact s.storeCw_wf bytes h
  | template _ => exact State.matrixMem_wf (.inl rfl) _ h
  | trial mask test hm => exact memoryCanonical_of_storeTrial (by omega) _ h
  | eval _ b => exact memoryCanonical_of_evalLanes s (fun m hm => List.mem_range.1 hm) h
  | commit _ _ m _ => exact State.matrixMem_wf (.inr (.inl rfl)) _ h

/-- A register write leaves memory alone, but for soft reset, which unlists every byte. -/
theorem memoryCanonical_of_writeReg {s : State} (h : s.MemoryCanonical) (r : Reg) (w : Word) :
    (s.writeReg r w).MemoryCanonical := by
  cases r with
  | ctrl =>
    simp only [State.writeReg, State.writeCtrl]
    split
    · exact Memory.wf_nil
    · exact h
  | _ => exact h

theorem HostEffect.memoryCanonical {s u : State} (he : HostEffect s u) (h : s.MemoryCanonical) :
    u.MemoryCanonical := by
  cases he with
  | nothing => exact h
  | store a bytes _ => exact Memory.wf_setBytes a bytes h
  | write r w _ => exact memoryCanonical_of_writeReg h r w

theorem memoryCanonical_of_hostStep {s : State} (h : s.MemoryCanonical) : s.hostStep.MemoryCanonical := by
  obtain ⟨u, side, hu, he⟩ := s.hostStep_effect
  rw [he]
  exact hu.memoryCanonical h

/-- Settles O56: the effects of commands and of the host's accesses keep the form, and a report changes STATUS alone. -/
theorem stepKeepsMemoryCanonical : Obligations.StepKeepsMemoryCanonical := by
  intro s t hs h
  rcases step_cases h with ⟨f, i, -, -, -, he⟩ | ⟨f, e, -, -, -, rfl⟩ | ⟨-, rfl⟩ | ⟨f, -, -, rfl⟩
  · obtain ⟨u, hu, rfl | ⟨e, rfl⟩⟩ := exec_reaches he hs fun _ _ _ _ hu he => he.memoryCanonical hu
    · exact hu
    · exact hu
  · exact hs
  · exact memoryCanonical_of_hostStep hs
  · exact memoryCanonical_of_hostStep (s := s.tick f) hs

end Sys2Proof.Machine

/-! Accesses that reach nothing, and the bytes of the accesses that reach a window. -/

namespace Sys2Proof.Machine

/-! ## Bus errors -/

/-- The holes of the map from 0x000100 up (`20_memory.md` R71, R73). -/
theorem windowOf_eq_none {a : Nat}
    (h : a < 0x1000 ∨ 0x1200 ≤ a ∧ a < 0x2000 ∨ 0x2080 ≤ a ∧ a < 0x3000 ∨ 0x3400 ≤ a ∧ a < 0x4000 ∨
      0x7000 ≤ a ∧ a < 0x10000 ∨ 0x60000 ≤ a) : windowOf a = none := by
  by_cases hhigh : 0x60000 ≤ a
  · exact windowOf_eq_none_of_le hhigh
  · cases hw : windowOf a with
    | none => rfl
    | some w =>
      have hb := windowOf_some hw
      cases w <;> simp only [Window.base, Window.size] at hb <;> omega

/-- PLEN[3] is the last register (`10_state.md` section 2). -/
theorem regAt_le_plen {a : Nat} {r : Reg} (h : regAt a = some r) : a ≤ 0x6C := by
  unfold regAt at h
  split at h <;> cases h <;> decide

theorem regAt_eq_none {a : Nat} (h : 0x70 ≤ a) : regAt a = none :=
  Option.eq_none_iff_forall_ne_some.2 fun _ hr => absurd (regAt_le_plen hr) (by omega)

theorem targetOf_misaligned {width : Width} {a : Nat} (h : a % width.bytes ≠ 0) : targetOf width a = .busError := by
  simp only [targetOf, if_pos h]

/-- The register range answers aligned 32-bit accesses at the registers alone. -/
theorem targetOf_no_register {width : Width} {a : Nat} (ha : a < 0x100) (h : width ≠ .word ∨ regAt a = none) :
    targetOf width a = .busError := by
  simp only [targetOf, if_pos ha]
  split
  · rfl
  · rcases h with h | h
    · cases width with
      | word => exact absurd rfl h
      | _ => rfl
    · rw [h]
      cases width <;> rfl

theorem targetOf_no_window {width : Width} {a : Nat} (ha : 0x100 ≤ a) (h : windowOf a = none) :
    targetOf width a = .busError := by
  simp only [targetOf, if_neg (Nat.not_lt.2 ha), h, ite_self]

theorem State.readResponse_of_busError (s : State) {width : Width} {a : BitVec 24}
    (h : targetOf width a.toNat = .busError) :
    s.readResponse width (s.params.qrcBase + a) = { data := 0, error := true } := by
  simp only [State.readResponse, State.busOffset_base, h]
  rfl

theorem State.hostWrite_of_busError (s : State) {width : Width} {a : BitVec 24} (value : Word)
    (h : targetOf width a.toNat = .busError) :
    s.hostWrite width (s.params.qrcBase + a) value = { s with response := some { data := 0, error := true } } := by
  simp only [State.hostWrite, State.writeEffect, State.busOffset_base, h]
  rfl

/-- Settles O50: every one of these accesses decodes to a bus error. -/
theorem busErrors : Obligations.BusErrors := by
  intro s width a value h
  have ht : targetOf width a.toNat = .busError := by
    rcases h with h | ⟨hlt, h | h⟩ | h
    · exact targetOf_misaligned h
    · exact targetOf_no_register hlt (.inl h)
    · exact targetOf_no_register hlt (.inr (regAt_eq_none h))
    · exact targetOf_no_window (by omega) (windowOf_eq_none (by omega))
  have hr := s.readResponse_of_busError ht
  exact ⟨hr, by simp only [State.hostRead, hr], 0, s.hostWrite_of_busError value ht⟩

/-! ## Bytes of an access -/

/-- Every window begins and ends at a multiple of 4, so the bytes of a 32-bit word lie in one window or in none. -/
theorem windowOf_congr {a b : Nat} (h : a / 4 = b / 4) : windowOf a = windowOf b := by
  unfold windowOf
  iterate 14 refine if_congr (by omega) rfl ?_
  exact if_congr (by omega) (by rw [show (a - 0x020000) / 0x8000 = (b - 0x020000) / 0x8000 by omega]) rfl

/-- An aligned access stays in one word. -/
theorem div_four_of_aligned {width : Width} {a i : Nat} (ha : a % width.bytes = 0) (hi : i < width.bytes) :
    (a + i) / 4 = a / 4 := by
  cases width <;> simp only [Width.bytes] at ha hi <;> omega

/-- Byte `i` of a bus value is byte `i` of the list it is made of. -/
theorem leWord_extract {bytes : List Byte} {i : Nat} (hi : i < bytes.length) (h4 : i < 4) :
    (leWord bytes).extractLsb' (8 * i) 8 = bytes[i] := by
  induction bytes generalizing i with
  | nil => simp at hi
  | cons b rest ih =>
    refine BitVec.eq_of_getLsbD_eq fun j hj => ?_
    cases i with
    | zero =>
      simp [leWord, hj, show j < 32 by omega]
    | succ k =>
      have hk := congrArg (BitVec.getLsbD · j) (ih (i := k) (by simpa using hi) (by omega))
      have hb : b.getLsbD (8 * (k + 1) + j) = false := BitVec.getLsbD_of_ge b _ (by omega)
      have hsub : 8 * (k + 1) + j - 8 = 8 * k + j := by omega
      have h32 : 8 * (k + 1) + j < 32 := by omega
      have h8 : ¬8 * (k + 1) + j < 8 := by omega
      have hlt : 8 * k + j < 32 := by omega
      simpa [leWord, hj, hb, hsub, h32, h8, hlt] using hk

/-- Byte `i` of the bytes of a bus value. -/
theorem leBytes_getElem {n i : Nat} (w : Word) (hi : i < (leBytes n w).length) :
    (leBytes n w)[i] = w.extractLsb' (8 * i) 8 := by
  induction n generalizing w i with
  | zero => simp [leBytes] at hi
  | succ n ih =>
    cases i with
    | zero => rfl
    | succ k =>
      simp only [leBytes, List.getElem_cons_succ, ih]
      refine BitVec.eq_of_getLsbD_eq fun j hj => ?_
      simp [Nat.mul_add, Nat.add_comm, Nat.add_left_comm]

theorem writable_of_hostWritable {a : Nat} {w : Window} (hw : windowOf a = some w) (h : w.hostWritable = true) :
    Memory.writable a = true := by
  cases w <;> simp [Window.hostWritable] at h <;> simp [Memory.writable, hw]

/-- An aligned read of a window, while no command runs, returns the bytes as stored. -/
theorem State.readResponse_window (s : State) {width : Width} {a : BitVec 24} {w : Window} (hb : s.busy = false)
    (ha : a.toNat % width.bytes = 0) (hw : windowOf a.toNat = some w) :
    s.readResponse width (s.params.qrcBase + a) =
      { data := leWord ((List.range width.bytes).map fun i => s.byteAt (a.toNat + i)), error := false } := by
  simp [State.readResponse, targetOf_window ha hw, State.hostByte, hb]

/-- A read above the registers that is no bus error reaches a window. -/
theorem State.exists_window_of_read (s : State) {width : Width} {a : BitVec 24} (ha : 0x1000 ≤ a.toNat)
    (h : (s.readResponse width (s.params.qrcBase + a)).error = false) : ∃ w, windowOf a.toNat = some w := by
  cases hw : windowOf a.toNat with
  | some w => exact ⟨w, rfl⟩
  | none => rw [s.readResponse_of_busError (targetOf_no_window (by omega) hw)] at h; cases h

/-- An aligned write to a host-writable window, while no command runs, stores its bytes. -/
theorem State.hostWrite_window (s : State) {width : Width} {a : BitVec 24} {w : Window} (value : Word)
    (hb : s.busy = false) (ha : a.toNat % width.bytes = 0) (hw : windowOf a.toNat = some w)
    (hwr : w.hostWritable = true) :
    s.hostWrite width (s.params.qrcBase + a) value =
      { s.setBytes a.toNat (leBytes width.bytes value) with response := some { data := 0, error := false } } := by
  rw [s.hostWrite_of_target value (by rw [targetOf_window ha hw]; nofun), s.writeEffect_window value ha hw, hwr, hb]
  rfl

/-- Settles O51: the bytes of an aligned access lie in one window, and a bus value lists them from bit 0 up. -/
theorem byteOrder : Obligations.ByteOrder := by
  refine ⟨fun s width a i hb hi ha hlo herr => ?_, fun s width a value hb ha h => ?_⟩
  · obtain ⟨w, hw⟩ := s.exists_window_of_read hlo herr
    have hwi : windowOf (a.toNat + i) = some w := (windowOf_congr (div_four_of_aligned ha hi)).trans hw
    have h4 : i < 4 := by cases width <;> simp only [Width.bytes] at hi <;> omega
    have hmap : a.toNat < 0x60000 := by
      by_contra hge
      rw [windowOf_eq_none_of_le (by omega)] at hw
      cases hw
    have hai : (a + BitVec.ofNat 24 i).toNat = a.toNat + i := by
      rw [BitVec.toNat_add, BitVec.toNat_ofNat]
      omega
    rw [s.readResponse_byte (hai ▸ hwi) (by rw [hb]; rfl), s.readResponse_window hb ha hw,
      leWord_extract (by simpa using hi) h4, extract_byte_of_setWidth, hai]
    simp
  · obtain ⟨w, hw, hwr⟩ := exists_window_hostWritable h
    intro t
    have ht : t = _ := s.hostWrite_window value hb ha hw hwr
    rw [ht]
    refine ⟨⟨0, rfl⟩, fun i hi => ?_, fun b hout => ?_⟩
    · have hlen : i < (leBytes width.bytes value).length := by rwa [leBytes_length]
      have hwi : windowOf (a.toNat + i) = some w := (windowOf_congr (div_four_of_aligned ha hi)).trans hw
      exact (s.byteAt_setBytes_at _ hlen (writable_of_hostWritable hwi hwr)).trans (leBytes_getElem value hlen)
    · exact s.byteAt_setBytes_other _ (by rw [leBytes_length]; exact hout)

end Sys2Proof.Machine

/-! Commands and the engine's record of the command in flight: no rule reads it, so a command does the same however many
cycles it has waited. -/

namespace Sys2Proof.Machine

/-- `s` with another command in flight, or none. -/
def State.withInFlight (s : State) (f : Option InFlight) : State := { s with inFlight := f }

section
variable (s : State) (f : Option InFlight)

@[simp] theorem State.withInFlight_params : (s.withInFlight f).params = s.params := rfl
@[simp] theorem State.withInFlight_arg0 : (s.withInFlight f).arg0 = s.arg0 := rfl
@[simp] theorem State.withInFlight_bitLen : (s.withInFlight f).bitLen = s.bitLen := rfl
@[simp] theorem State.withInFlight_nseg : (s.withInFlight f).nseg = s.nseg := rfl
@[simp] theorem State.withInFlight_cfgLevel : (s.withInFlight f).cfgLevel = s.cfgLevel := rfl
@[simp] theorem State.withInFlight_resVersion : (s.withInFlight f).resVersion = s.resVersion := rfl
@[simp] theorem State.withInFlight_tplVer : (s.withInFlight f).tplVer = s.tplVer := rfl
@[simp] theorem State.withInFlight_best : (s.withInFlight f).best = s.best := rfl

@[simp] theorem State.bytesAt_withInFlight (base len : Nat) :
    (s.withInFlight f).bytesAt base len = s.bytesAt base len := rfl

@[simp] theorem State.matrixAt_withInFlight (w : Window) (n : Nat) :
    (s.withInFlight f).matrixAt w n = s.matrixAt w n := rfl

@[simp] theorem polyOperand_withInFlight (k : PReg) : polyOperand (s.withInFlight f) k = polyOperand s k := rfl

@[simp] theorem loadSegment_withInFlight (i : Nat) : loadSegment (s.withInFlight f) i = loadSegment s i := rfl

@[simp] theorem loadSegments_withInFlight (is : List Nat) :
    loadSegments (s.withInFlight f) is = loadSegments s is := by
  induction is with
  | nil => rfl
  | cons i rest ih => simp only [loadSegments, loadSegment_withInFlight, ih]

@[simp] theorem validate_withInFlight : validate (s.withInFlight f) = validate s := by
  simp only [validate, loadSegments_withInFlight]
  rfl

@[simp] theorem chooseVersion_withInFlight (gs : List Segment) :
    chooseVersion (s.withInFlight f) gs = chooseVersion s gs := rfl

@[simp] theorem trial_withInFlight (m : Nat) (test : Bool) : trial (s.withInFlight f) m test = trial s m test := rfl

@[simp] theorem checkTrial_withInFlight (m : Nat) : checkTrial (s.withInFlight f) m = checkTrial s m := rfl

@[simp] theorem bbOverflows_withInFlight (count : Nat) :
    bbOverflows (s.withInFlight f) count = bbOverflows s count := rfl

@[simp] theorem State.putBits_withInFlight (bits : List Bool) :
    (s.withInFlight f).putBits bits = (s.putBits bits).withInFlight f := by
  induction bits generalizing s with
  | nil => rfl
  | cons b rest ih => exact ih (s.putBit b)

@[simp] theorem evalLanes_withInFlight (t : State) (ms : List Nat) :
    ms.foldl (evalLane (s.withInFlight f)) (t.withInFlight f) = (ms.foldl (evalLane s) t).withInFlight f := by
  induction ms generalizing t with
  | nil => rfl
  | cons m rest ih => exact ih (evalLane s t m)

end

/-- A rule's reads do not see the command in flight, so both sides pass or fail the same checks and write the same. -/
theorem ruleOf_withInFlight (i : Instr) (s : State) (f : Option InFlight) :
    ruleOf i (s.withInFlight f) = (ruleOf i s).map fun u => u.withInFlight f := by
  cases i with
  | nop | gfExp | bbClear | encode => rfl
  | mxRead => exact map_check rfl
  | gfLog =>
    simp only [ruleOf, ruleGfLog, State.withInFlight_arg0]
    split <;> rfl
  | polyGen d n =>
    refine map_check ?_
    cases generator n <;> rfl
  | polyNorm | polyMul | polyMod =>
    simp only [ruleOf, rulePolyNorm, rulePolyMul, rulePolyMod, polyOperand_withInFlight, State.withInFlight_params]
    repeat' split
    all_goals rfl
  | segClassify | segCost | segWrite =>
    simp only [ruleOf, ruleSegClassify, ruleSegCost, ruleSegWrite, loadSegment_withInFlight, State.withInFlight_params,
      State.withInFlight_arg0, State.withInFlight_resVersion, bbOverflows_withInFlight, State.putBits_withInFlight]
    repeat' split
    all_goals rfl
  | bbPut | bbEom | bbPad =>
    simp only [ruleOf, ruleBbPut, ruleBbEom, ruleBbPad, State.put, State.withInFlight_params, State.withInFlight_arg0,
      State.withInFlight_bitLen, bbOverflows_withInFlight, State.putBits_withInFlight]
    repeat' split
    all_goals rfl
  | rsAssemble =>
    simp only [ruleOf, ruleRsAssemble, State.withInFlight_params, State.withInFlight_resVersion,
      State.withInFlight_cfgLevel, State.withInFlight_bitLen, State.bytesAt_withInFlight]
    split
    · rfl
    · refine map_check (map_check ?_)
      split <;> rfl
  | ecInfo | mxTemplate | verSelect =>
    simp only [ruleOf, ruleEcInfo, ruleMxTemplate, ruleVerSelect, State.withInFlight_params, State.withInFlight_arg0,
      State.withInFlight_cfgLevel, State.withInFlight_resVersion, validate_withInFlight, chooseVersion_withInFlight]
    repeat' split
    all_goals rfl
  | mxTrial | mxScore | mxEval | mxCommit =>
    simp only [ruleOf, ruleMxTrial, ruleMxScore, ruleMxEval, ruleMxCommit, checkTrial_withInFlight, trial_withInFlight,
      State.withInFlight_tplVer, State.withInFlight_best, State.matrixAt_withInFlight, evalLanes_withInFlight]
    repeat' split
    all_goals rfl

theorem encodeSteps_withInFlight {nseg : Nat} {rule : Rule} (hr : rule ∈ encodeSteps nseg) (s : State)
    (f : Option InFlight) : rule (s.withInFlight f) = (rule s).map fun u => u.withInFlight f := by
  simp only [encodeSteps, List.mem_append, List.mem_cons, List.mem_map, List.not_mem_nil, or_false] at hr
  rcases hr with ((rfl | rfl) | ⟨k, -, rfl⟩) | rfl | rfl | rfl | rfl | rfl | rfl
  · exact ruleOf_withInFlight .verSelect s f
  · exact ruleOf_withInFlight .bbClear s f
  · exact ruleOf_withInFlight (.segWrite k) s f
  · exact ruleOf_withInFlight (.bbEom (encodeCapacity s)) s f
  · exact ruleOf_withInFlight (.bbPad (encodeCapacity s)) s f
  · exact ruleOf_withInFlight .rsAssemble s f
  · exact ruleOf_withInFlight .mxTemplate s f
  · exact ruleOf_withInFlight .mxEval s f
  · exact ruleOf_withInFlight (.mxCommit 0 true) s f

/-- Steps that each commute with a map of states commute with it together. -/
theorem runSteps_map {steps : List Rule} {g : State → State}
    (hg : ∀ rule ∈ steps, ∀ s, rule (g s) = (rule s).map g) (s : State) :
    runSteps steps (g s) = (g (runSteps steps s).1, (runSteps steps s).2) := by
  induction steps generalizing s with
  | nil => rfl
  | cons rule rest ih =>
    have hrule := hg rule List.mem_cons_self s
    cases hr : rule s with
    | ok u =>
      rw [hr] at hrule
      rw [runSteps_cons_ok hr, runSteps_cons_ok hrule, ih fun r hm => hg r (List.mem_cons_of_mem _ hm)]
    | error e =>
      rw [hr] at hrule
      rw [runSteps_cons_error hr, runSteps_cons_error hrule]

/-- A command reports its outcome with no command in flight, so the one that was in flight is forgotten. -/
theorem exec_withInFlight (i : Instr) (s : State) (f : Option InFlight) : exec i (s.withInFlight f) = exec i s := by
  by_cases hi : i = .encode
  · subst hi
    rw [exec_encode, exec_encode, completeSteps, completeSteps, State.withInFlight_nseg,
      runSteps_map (g := fun u => u.withInFlight f) fun _ hr s => encodeSteps_withInFlight hr s f]
    rcases runSteps (encodeSteps s.nseg.toNat) s with ⟨u, _ | e⟩ <;> rfl
  · rw [exec_eq_complete hi, exec_eq_complete hi, complete, complete, ruleOf_withInFlight]
    cases ruleOf i s <;> rfl

/-- What an accepted word does, beside another host's side and with other cycles left. -/
theorem runWord_beside {w : Word} {s u : State} (h : HostSide) (f : Option InFlight) (hu : runWord w s = .next u) :
    runWord w ((s.withInFlight f).withHostSide h) = .next (u.withHostSide h) := by
  simp only [runWord] at hu ⊢
  cases hd : decode w with
  | error e =>
    simp only [hd, Host.Outcome.next.injEq] at hu
    rw [← hu]
    rfl
  | ok i =>
    simp only [hd] at hu
    exact commandsIgnoreHostSide i _ u h ((exec_withInFlight i s f).trans hu)

/-- A word's command ends with DONE set and BUSY 0, and leaves LASTOP. -/
theorem runWord_reports {w : Word} {s u : State} (hu : runWord w s = .next u) :
    u.busy = false ∧ u.done = true ∧ u.lastOp = s.lastOp := by
  simp only [runWord] at hu
  cases hd : decode w with
  | error e =>
    simp only [hd, Host.Outcome.next.injEq] at hu
    rw [← hu]
    exact ⟨rfl, rfl, rfl⟩
  | ok i =>
    simp only [hd] at hu
    obtain ⟨v, hv, rfl | ⟨e, rfl⟩⟩ := exec_frame hu
    all_goals exact ⟨rfl, rfl, (by rw [hv]; rfl : v.lastOp = s.lastOp)⟩

theorem runWord_next (w : Word) (s : State) : ∃ u, runWord w s = .next u := by
  simp only [runWord]
  cases decode w with
  | error e => exact ⟨_, rfl⟩
  | ok i => exact exec_next i s

end Sys2Proof.Machine

/-! A command in flight: until it completes, the host can change its own side of the machine alone, unless it resets. -/

namespace Sys2Proof.Machine

/-- `w` is in flight with `n` cycles left, and STATUS is as acceptance left it (`70_reset_and_hazards.md` R350). -/
structure State.Running (s : State) (w : Word) (n : Nat) : Prop where
  inFlight : s.inFlight = some { word := w, left := n }
  done : s.done = false
  err : s.err = false
  errCode : s.errCode = 0

/-- `t` is `s` with another host's side and the same LASTOP. -/
def State.HostSideOf (s t : State) : Prop := t = s.withHostSide t.hostSide ∧ t.lastOp = s.lastOp

section
variable {s t u : State} {w : Word} {n : Nat}

theorem State.HostSideOf.trans (h : s.HostSideOf t) (h' : t.HostSideOf u) : s.HostSideOf u :=
  ⟨h'.1.trans (by rw [h.1]; rfl), h'.2.trans h.2⟩

theorem State.hostSideOf_hostQueue (s : State) (q : List HostAction) : s.HostSideOf { s with hostQueue := q } :=
  ⟨rfl, rfl⟩

theorem State.hostSideOf_hostRead (s : State) (width : Width) (addr : BitVec 24) :
    s.HostSideOf (s.hostRead width addr) := by
  simp only [State.hostRead]
  split <;> exact ⟨rfl, rfl⟩

/-! ## What a running command lets the host write -/

theorem State.Running.busy (hs : s.Running w n) : s.busy = true := by simp [State.busy, hs.inFlight]

theorem State.Running.tick (hs : s.Running w (n + 1)) : (s.tick { word := w, left := n + 1 }).Running w n :=
  ⟨rfl, hs.done, hs.err, hs.errCode⟩

theorem State.Running.of_hostSideOf (hs : s.Running w n) (h : s.HostSideOf t) : t.Running w n := by
  rw [h.1]
  exact ⟨hs.inFlight, hs.done, hs.err, hs.errCode⟩

/-- A running command has reported nothing, so an acknowledgement clears COLL at most. -/
theorem State.Running.ackStatus (hs : s.Running w n) (ackDone ackErr ackColl : Bool) :
    s.ackStatus ackDone ackErr ackColl = { s with coll := s.coll && !ackColl } := by
  have hd : (s.done && !ackDone) = s.done := by rw [hs.done, Bool.false_and]
  have he : (s.err && !ackErr) = s.err := by rw [hs.err, Bool.false_and]
  have hc : (if ackErr then 0 else s.errCode) = s.errCode := by rw [hs.errCode, ite_self]
  rw [State.ackStatus, hd, he, hc]

/-- The register writes that a running command does not drop reach the host's side alone, unless one resets the core. -/
theorem State.Running.writeReg (hs : s.Running w n) {r : Reg} {v : Word} (hr : r.droppedWhileBusy = false)
    (hc : r = .ctrl → v.getLsbD 31 = false) : s.HostSideOf (s.writeReg r v) := by
  cases r with
  | ctrl =>
    rw [State.writeReg, State.writeCtrl, hc rfl]
    exact ⟨rfl, rfl⟩
  | status =>
    rw [State.writeReg, hs.ackStatus]
    exact ⟨rfl, rfl⟩
  | cmd | cfg | arg0 | arg1 | nseg | plen _ => cases hr
  | _ => exact ⟨rfl, rfl⟩

theorem State.Running.writeEffect (hs : s.Running w n) {width : Width} {a : Nat} {v : Word}
    (hc : targetOf width a = .reg .ctrl → v.getLsbD 31 = false) : s.HostSideOf (s.writeEffect width a v) := by
  have hb := hs.busy
  rcases s.writeEffect_cases width a v with he | ⟨-, he⟩ | ⟨-, -, -, hidle, -⟩ | ⟨r, ht, hr, he⟩
  · rw [he]; exact ⟨rfl, rfl⟩
  · rw [he]; exact ⟨rfl, rfl⟩
  · rw [hb] at hidle; cases hidle
  · rw [hb, Bool.true_and] at hr
    rw [he]
    exact hs.writeReg hr fun h => hc (h ▸ ht)

/-! ## Soft reset -/

theorem targetOf_eq_reg {width : Width} {a : Nat} {r : Reg} (h : targetOf width a = .reg r) :
    width = .word ∧ regAt a = some r := by
  simp only [targetOf] at h
  split at h
  · cases h
  · split at h
    · split at h
      · rename_i hr _
        cases h
        exact ⟨rfl, hr⟩
      · cases h
    · split at h <;> cases h

theorem regAt_ctrl {a : Nat} (h : regAt a = some .ctrl) : a = 0x004 := by
  unfold regAt at h
  split at h <;> cases h
  rfl

/-- A write that reaches CTRL and is no soft reset has bit 31 clear. -/
theorem bit31_of_not_softResets {width : Width} {addr : BitVec 24} {v : Word}
    (h : targetOf width (s.busOffset addr) = .reg .ctrl)
    (hno : (HostAction.write width addr v).softResets s.params.qrcBase = false) : v.getLsbD 31 = false := by
  obtain ⟨rfl, hr⟩ := targetOf_eq_reg h
  have hoff : addr - s.params.qrcBase = 0x004 := BitVec.eq_of_toNat_eq (regAt_ctrl hr)
  have haddr : addr = s.params.qrcBase + 0x004 := by
    rw [← hoff, BitVec.add_comm, BitVec.sub_add_cancel]
  simpa [HostAction.softResets, haddr] using hno

/-! ## The host's accesses -/

/-- The host's next access finds a command running: it changes the host's side, unless it is a soft reset. -/
theorem State.Running.hostStep (hs : s.Running w n)
    (hq : ∀ a ∈ s.hostQueue.head?, a.softResets s.params.qrcBase = false) : s.HostSideOf s.hostStep := by
  rcases s.hostStep_cases with h | ⟨q, width, addr, h⟩ | ⟨width, addr, v, rest, hqueue, h⟩ <;> rw [h]
  · exact ⟨rfl, rfl⟩
  · exact (s.hostSideOf_hostQueue q).trans (State.hostSideOf_hostRead _ width addr)
  · have hno := hq (.write width addr v) (by rw [hqueue]; rfl)
    have hrest := s.hostSideOf_hostQueue rest
    have hwrite := (hs.of_hostSideOf hrest).writeEffect (width := width)
      (a := State.busOffset { s with hostQueue := rest } addr) (v := v) fun ht => bit31_of_not_softResets ht hno
    exact (hrest.trans hwrite).trans ⟨rfl, rfl⟩

theorem State.writeEffect_hostQueue (s : State) (width : Width) (a : Nat) (v : Word) :
    (s.writeEffect width a v).hostQueue = s.hostQueue := by
  rcases s.writeEffect_cases width a v with he | ⟨-, he⟩ | ⟨-, -, -, -, he⟩ | ⟨r, -, -, he⟩ <;> rw [he]
  · rfl
  · rfl
  · cases r with
    | ctrl =>
      rw [State.writeReg, State.writeCtrl]
      split <;> rfl
    | _ => rfl

/-- The host takes its next action off the queue, or waits and leaves it there. -/
theorem State.hostStep_hostQueue (s : State) :
    s.hostStep.hostQueue = s.hostQueue ∨ s.hostStep.hostQueue = s.hostQueue.tail := by
  cases hq : s.hostQueue with
  | nil => exact .inl (by simp only [State.hostStep, hq])
  | cons action rest =>
    cases action with
    | read width addr => exact .inr (by simp only [State.hostStep, hq]; rfl)
    | write width addr v =>
      right
      simp only [State.hostStep, hq]
      exact State.writeEffect_hostQueue _ width _ v
    | wait =>
      simp only [State.hostStep, hq, State.hostRead]
      cases s.busy
      · exact .inr rfl
      · exact .inl rfl

theorem State.mem_take_hostStep {a : HostAction} (h : a ∈ s.hostStep.hostQueue.take n) :
    a ∈ s.hostQueue.take (n + 1) := by
  rcases s.hostStep_hostQueue with hq | hq <;> rw [hq] at h
  · exact List.mem_of_mem_take (i := n) (by rwa [List.take_take, Nat.min_eq_left (Nat.le_succ n)])
  · cases hs : s.hostQueue with
    | nil => simp [hs] at h
    | cons b rest => exact List.mem_cons_of_mem b (by simpa [hs] using h)

theorem mem_take_of_head? {α : Type} {l : List α} {a : α} (h : a ∈ l.head?) (n : Nat) : a ∈ l.take (n + 1) := by
  obtain ⟨rest, rfl⟩ := List.head?_eq_some_iff.1 h
  exact List.mem_cons_self

end

/-! ## Completion -/

theorem run_succ {s t : State} (n : Nat) (h : step s = .next t) :
    Host.Core.run core (n + 1) s = Host.Core.run core n t := by
  simp only [Host.Core.run]
  rw [show core.step s = .next t from h]

theorem State.Running.step_zero {s : State} {w : Word} (hs : s.Running w 0) : step s = runWord w s := by
  simp only [step, hs.inFlight, if_true]

theorem State.Running.step_succ {s : State} {w : Word} {n : Nat} (hs : s.Running w (n + 1)) :
    step s = .next (s.tick { word := w, left := n + 1 }).hostStep := by
  simp only [step, hs.inFlight, Nat.add_one_ne_zero, if_false]

/-- Settles O60, by induction on the cycles left: a cycle changes the host's side and the cycles left, which the
command's meaning does not depend on. -/
theorem acceptedCommandCompletes : Obligations.AcceptedCommandCompletes := by
  intro s w n hf hd he hc hq
  have hs : s.Running w n := ⟨hf, hd, he, hc⟩
  clear hf hd he hc
  induction n generalizing s with
  | zero =>
    obtain ⟨u, hu⟩ := runWord_next w s
    obtain ⟨hbusy, hdone, hop⟩ := runWord_reports hu
    exact ⟨u, u, u.hostSide, run_succ 0 (hs.step_zero.trans hu), hbusy, hdone, hop, hu, rfl⟩
  | succ n ih =>
    obtain ⟨u, hu⟩ := runWord_next w s
    have hhost := hs.tick.hostStep fun a ha => hq a (mem_take_of_head? ha n)
    have hp : (s.tick { word := w, left := n + 1 }).hostStep.params = s.params := by rw [hhost.1]; rfl
    obtain ⟨t, v, h, hrun, hbusy, hdone, hop, hv, ht⟩ := ih _
      (fun a ha => by rw [hp]; exact hq a (State.mem_take_hostStep (s := s.tick _) ha)) (hs.tick.of_hostSideOf hhost)
    rw [hhost.1] at hv
    have huv := hv.symm.trans (runWord_beside _ _ hu)
    rw [Host.Outcome.next.injEq] at huv
    exact ⟨t, u, h, (run_succ (n + 1) hs.step_succ).trans hrun, hbusy, hdone, hop.trans hhost.2, hu,
      by rw [ht, huv]; rfl⟩

end Sys2Proof.Machine

/-! The encoding: a word is its fields, each format's encoder is the word with the format's fields, and a command decodes
from a word exactly where it is well formed and the word is its encoding (`30_encoding.md` R101-R106, R109). -/

namespace Sys2Proof

open Decode

/-! ## Fields as numbers -/

theorem op_toNat (w : Word) : (op w).toNat = w.toNat % 256 := by
  simp [op]

theorem extract_eq_zero_iff (w : Word) (k n : Nat) : w.extractLsb' k n = 0 ↔ w.toNat / 2 ^ k % 2 ^ n = 0 := by
  simp [← BitVec.toNat_inj, Nat.shiftRight_eq_div_pow]

theorem imm16_eq (w : Word) : imm16 w = w.toNat / 65536 % 65536 := by
  simp [imm16, Nat.shiftRight_eq_div_pow]

theorem imm4_eq (w : Word) : imm4 w = w.toNat / 65536 % 16 := by
  simp [imm4, Nat.shiftRight_eq_div_pow]

theorem regD_val (w : Word) : (regD w).val = w.toNat / 256 % 4 := by
  simp [regD, Nat.shiftRight_eq_div_pow]

theorem regA_val (w : Word) : (regA w).val = w.toNat / 1024 % 4 := by
  simp [regA, Nat.shiftRight_eq_div_pow]

theorem regB_val (w : Word) : (regB w).val = w.toNat / 4096 % 4 := by
  simp [regB, Nat.shiftRight_eq_div_pow]

theorem getLsbD_eq_iff (w : Word) (k : Nat) (b : Bool) : w.getLsbD k = b ↔ w.toNat / 2 ^ k % 2 = b.toNat := by
  rw [BitVec.getLsbD, Nat.testBit_eq_decide_div_mod_eq]
  cases b <;> simp

/-! ## Encoders as numbers -/

theorem encI_toNat {n imm : Nat} (hn : n < 256) (himm : imm < 65536) : (encI n imm).toNat = imm * 65536 + n := by
  rw [encI, ← Nat.shiftLeft_add_eq_or_of_lt (by omega), Nat.shiftLeft_eq, BitVec.toNat_ofNat]
  omega

theorem encP_toNat {n imm : Nat} (d a b : PReg) (hn : n < 256) (himm : imm < 65536) :
    (encP n d a b imm).toNat = imm * 65536 + b.val * 4096 + a.val * 1024 + d.val * 256 + n := by
  have hd : d.val <<< 8 ||| n = d.val * 256 + n := by
    rw [← Nat.shiftLeft_add_eq_or_of_lt (by omega), Nat.shiftLeft_eq]
  have ha : a.val <<< 10 ||| (d.val * 256 + n) = a.val * 1024 + (d.val * 256 + n) := by
    rw [← Nat.shiftLeft_add_eq_or_of_lt (by omega), Nat.shiftLeft_eq]
  have hb : b.val <<< 12 ||| (a.val * 1024 + (d.val * 256 + n)) = b.val * 4096 + (a.val * 1024 + (d.val * 256 + n)) := by
    rw [← Nat.shiftLeft_add_eq_or_of_lt (by omega), Nat.shiftLeft_eq]
  rw [encP, Nat.or_assoc, Nat.or_assoc, Nat.or_assoc, hd, ha, hb, ← Nat.shiftLeft_add_eq_or_of_lt (by omega),
    Nat.shiftLeft_eq, BitVec.toNat_ofNat]
  omega

/-! ## A word is its fields -/

theorem encN_eq_iff {n : Nat} (hn : n < 256) (w : Word) :
    encN n = w ↔ (op w).toNat = n ∧ w.extractLsb' 8 24 = 0 := by
  rw [← BitVec.toNat_inj, encN, BitVec.toNat_ofNat, op_toNat, extract_eq_zero_iff]
  omega

theorem encI_eq_iff {n imm : Nat} (hn : n < 256) (himm : imm < 65536) (w : Word) :
    encI n imm = w ↔ (op w).toNat = n ∧ w.extractLsb' 8 8 = 0 ∧ imm16 w = imm := by
  rw [← BitVec.toNat_inj, encI_toNat hn himm, op_toNat, extract_eq_zero_iff, imm16_eq]
  omega

theorem encP_eq_iff {n imm : Nat} (d a b : PReg) (hn : n < 256) (himm : imm < 65536) (w : Word) :
    encP n d a b imm = w ↔ (op w).toNat = n ∧ w.extractLsb' 14 2 = 0 ∧ regD w = d ∧ regA w = a ∧ regB w = b ∧
      imm16 w = imm := by
  rw [← BitVec.toNat_inj, encP_toNat d a b hn himm, op_toNat, extract_eq_zero_iff, imm16_eq, Fin.ext_iff, Fin.ext_iff,
    Fin.ext_iff, regD_val, regA_val, regB_val]
  omega

theorem extract_regs_eq_zero_iff (w : Word) : w.extractLsb' 10 4 = 0 ↔ regA w = 0 ∧ regB w = 0 := by
  rw [extract_eq_zero_iff, Fin.ext_iff, Fin.ext_iff, regA_val, regB_val, Fin.val_zero]
  omega

/-! ## Immediates that R104 restricts -/

theorem imm16_lt (w : Word) : imm16 w < 65536 := BitVec.isLt _

theorem imm4_lt (w : Word) : imm4 w < 16 := BitVec.isLt _

theorem imm16_eq_index_iff {m : Nat} (hm : m < 16) (w : Word) :
    imm16 w = m ↔ w.extractLsb' 20 12 = 0 ∧ imm4 w = m := by
  rw [imm16_eq, imm4_eq, extract_eq_zero_iff]
  omega

/-- MX_TRIAL's immediate is MASK with TEST at bit 8 (`30_encoding.md` R104). -/
theorem imm16_eq_trial_iff {m : Nat} (hm : m < 16) (b : Bool) (w : Word) :
    imm16 w = b.toNat <<< 8 ||| m ↔
      w.extractLsb' 20 4 = 0 ∧ w.extractLsb' 25 7 = 0 ∧ imm4 w = m ∧ w.getLsbD 24 = b := by
  rw [← Nat.shiftLeft_add_eq_or_of_lt (by omega), Nat.shiftLeft_eq, imm16_eq, imm4_eq, extract_eq_zero_iff,
    extract_eq_zero_iff, getLsbD_eq_iff]
  have := b.toNat_lt
  omega

/-- MX_COMMIT's immediate is MASK with USE_BEST at bit 4 (`30_encoding.md` R104). -/
theorem imm16_eq_commit_iff {m : Nat} (hm : m < 16) (b : Bool) (w : Word) :
    imm16 w = b.toNat <<< 4 ||| m ↔ w.extractLsb' 21 11 = 0 ∧ imm4 w = m ∧ w.getLsbD 20 = b := by
  rw [← Nat.shiftLeft_add_eq_or_of_lt (by omega), Nat.shiftLeft_eq, imm16_eq, imm4_eq, extract_eq_zero_iff,
    getLsbD_eq_iff]
  have := b.toNat_lt
  omega

theorem flag_or_index_lt {m k : Nat} (hm : m < 16) (hk : k < 16) (b : Bool) : b.toNat <<< k ||| m < 65536 := by
  have hflag : b.toNat <<< k < 2 ^ 16 := by
    calc b.toNat <<< k = b.toNat * 2 ^ k := Nat.shiftLeft_eq _ _
      _ ≤ 1 * 2 ^ k := Nat.mul_le_mul_right _ b.toNat_le
      _ = 2 ^ k := one_mul _
      _ < 2 ^ 16 := Nat.pow_lt_pow_right (by decide) hk
  exact Nat.or_lt_two_pow hflag (by omega)

/-! ## Decoding is the inverse of encoding -/

theorem formatN_eq_ok_iff {w : Word} {i j : Instr} : formatN w i = .ok j ↔ w.extractLsb' 8 24 = 0 ∧ i = j := by
  unfold formatN
  split <;> simp_all

theorem formatI_eq_ok_iff {w : Word} {ok : Bool} {i j : Instr} :
    formatI w ok i = .ok j ↔ w.extractLsb' 8 8 = 0 ∧ ok = true ∧ i = j := by
  unfold formatI
  cases ok <;> split <;> simp_all

theorem formatP_eq_ok_iff {w : Word} {ok : Bool} {i j : Instr} :
    formatP w ok i = .ok j ↔ w.extractLsb' 14 2 = 0 ∧ ok = true ∧ i = j := by
  unfold formatP
  cases ok <;> split <;> simp_all

/-- Settles O3: the word of a command has the fields that the command's arm of the decoder asks for. -/
theorem decodeOfEncode : Obligations.DecodeOfEncode := by
  intro i hi
  generalize hw : encode i = w
  cases i with
  | nop | gfLog | gfExp | bbClear | ecInfo | rsAssemble | mxTemplate | mxEval | mxRead | verSelect | encode =>
    exact hw ▸ rfl
  | polyNorm d imm | polyGen d imm =>
    obtain ⟨hop, hmbz, rfl, ha, hb, rfl⟩ := (encP_eq_iff _ _ _ (by decide) (of_decide_eq_true hi) w).1 hw
    simp only [decode, hop]
    exact formatP_eq_ok_iff.2 ⟨hmbz, decide_eq_true ((extract_regs_eq_zero_iff w).2 ⟨ha, hb⟩), rfl⟩
  | polyMul d a b | polyMod d a b =>
    obtain ⟨hop, hmbz, rfl, rfl, rfl, himm⟩ := (encP_eq_iff _ _ _ (by decide) (by decide) w).1 hw
    simp only [decode, hop]
    exact formatP_eq_ok_iff.2 ⟨hmbz, decide_eq_true himm, rfl⟩
  | segClassify m | segCost m | segWrite m | mxScore m =>
    have hm : m < 16 := of_decide_eq_true hi
    obtain ⟨hop, hmbz, himm⟩ := (encI_eq_iff (by decide) (by omega) w).1 hw
    obtain ⟨hhigh, rfl⟩ := (imm16_eq_index_iff hm w).1 himm
    simp only [decode, hop]
    exact formatI_eq_ok_iff.2 ⟨hmbz, decide_eq_true hhigh, rfl⟩
  | bbPut imm | bbEom imm | bbPad imm =>
    obtain ⟨hop, hmbz, rfl⟩ := (encI_eq_iff (by decide) (of_decide_eq_true hi) w).1 hw
    simp only [decode, hop]
    exact formatI_eq_ok_iff.2 ⟨hmbz, rfl, rfl⟩
  | mxTrial m test =>
    have hm : m < 16 := of_decide_eq_true hi
    obtain ⟨hop, hmbz, himm⟩ := (encI_eq_iff (by decide) (flag_or_index_lt hm (by decide) test) w).1 hw
    obtain ⟨hlow, hhigh, rfl, rfl⟩ := (imm16_eq_trial_iff hm test w).1 himm
    simp only [decode, hop]
    exact formatI_eq_ok_iff.2 ⟨hmbz, by simp [hlow, hhigh], rfl⟩
  | mxCommit m useBest =>
    have hm : m < 16 := of_decide_eq_true hi
    obtain ⟨hop, hmbz, himm⟩ := (encI_eq_iff (by decide) (flag_or_index_lt hm (by decide) useBest) w).1 hw
    obtain ⟨hhigh, rfl, rfl⟩ := (imm16_eq_commit_iff hm useBest w).1 himm
    simp only [decode, hop]
    exact formatI_eq_ok_iff.2 ⟨hmbz, decide_eq_true hhigh, rfl⟩

/-! ## The command an arm reads, encoded

Each lemma is one kind of arm: its format, with what the opcode asks of the operand fields. -/

section
variable {n : Nat} {w : Word} {ok : Bool} {i j : Instr}

theorem encode_of_formatN (hop : (op w).toNat = n) (h : formatN w i = .ok j)
    (hi : i.wf = true ∧ encode i = encN n) : encode j = w ∧ j.wf = true := by
  obtain ⟨hmbz, rfl⟩ := formatN_eq_ok_iff.1 h
  exact ⟨hi.2.trans ((encN_eq_iff (hop ▸ (op w).isLt) w).2 ⟨hop, hmbz⟩), hi.1⟩

theorem encode_of_formatI (hop : (op w).toNat = n) (h : formatI w ok i = .ok j)
    (hi : ok = true → i.wf = true ∧ encode i = encI n (imm16 w)) : encode j = w ∧ j.wf = true := by
  obtain ⟨hmbz, hok, rfl⟩ := formatI_eq_ok_iff.1 h
  obtain ⟨hwf, hi⟩ := hi hok
  exact ⟨hi.trans ((encI_eq_iff (hop ▸ (op w).isLt) (imm16_lt w) w).2 ⟨hop, hmbz, rfl⟩), hwf⟩

theorem encode_of_formatP (hop : (op w).toNat = n) (h : formatP w ok i = .ok j)
    (hi : ok = true → i.wf = true ∧ encode i = encP n (regD w) (regA w) (regB w) (imm16 w)) :
    encode j = w ∧ j.wf = true := by
  obtain ⟨hmbz, hok, rfl⟩ := formatP_eq_ok_iff.1 h
  obtain ⟨hwf, hi⟩ := hi hok
  exact ⟨hi.trans ((encP_eq_iff _ _ _ (hop ▸ (op w).isLt) (imm16_lt w) w).2 ⟨hop, hmbz, rfl, rfl, rfl, rfl⟩), hwf⟩

/-- SEG_CLASSIFY, SEG_COST, SEG_WRITE and MX_SCORE: a 4-bit index. -/
theorem encode_of_index (hop : (op w).toNat = n) (h : formatI w (w.extractLsb' 20 12 = 0) i = .ok j)
    (hi : i.wf = decide (imm4 w < 16) ∧ encode i = encI n (imm4 w)) : encode j = w ∧ j.wf = true :=
  encode_of_formatI hop h fun hz => by
    rw [(imm16_eq_index_iff (imm4_lt w) w).2 ⟨of_decide_eq_true hz, rfl⟩, hi.1]
    exact ⟨decide_eq_true (imm4_lt w), hi.2⟩

/-- BB_PUT, BB_EOM and BB_PAD: a 16-bit value. -/
theorem encode_of_value (hop : (op w).toNat = n) (h : formatI w true i = .ok j)
    (hi : i.wf = decide (imm16 w < 65536) ∧ encode i = encI n (imm16 w)) : encode j = w ∧ j.wf = true :=
  encode_of_formatI hop h fun _ => ⟨hi.1.trans (decide_eq_true (imm16_lt w)), hi.2⟩

/-- POLY_NORM and POLY_GEN: D and a 16-bit value. -/
theorem encode_of_regD_value (hop : (op w).toNat = n) (h : formatP w (w.extractLsb' 10 4 = 0) i = .ok j)
    (hi : i.wf = decide (imm16 w < 65536) ∧ encode i = encP n (regD w) 0 0 (imm16 w)) :
    encode j = w ∧ j.wf = true :=
  encode_of_formatP hop h fun hz => by
    obtain ⟨ha, hb⟩ := (extract_regs_eq_zero_iff w).1 (of_decide_eq_true hz)
    rw [ha, hb, hi.1]
    exact ⟨decide_eq_true (imm16_lt w), hi.2⟩

/-- POLY_MUL and POLY_MOD: D, A and B. -/
theorem encode_of_regs (hop : (op w).toNat = n) (h : formatP w (imm16 w = 0) i = .ok j)
    (hi : i.wf = true ∧ encode i = encP n (regD w) (regA w) (regB w) 0) : encode j = w ∧ j.wf = true :=
  encode_of_formatP hop h fun hz => by rwa [of_decide_eq_true hz]

end

/-- Settles O4: each arm of the decoder reads a command whose encoder puts the fields read back in place. -/
theorem encodeOfDecode : Obligations.EncodeOfDecode := by
  intro w i h
  unfold decode at h
  split at h
  -- The commands without operands.
  case h_1 hop | h_2 hop | h_3 hop | h_11 hop | h_15 hop | h_16 hop | h_17 hop | h_20 hop | h_22 hop | h_23 hop
      | h_24 hop => exact encode_of_formatN hop h ⟨rfl, rfl⟩
  -- POLY_NORM and POLY_GEN.
  case h_4 hop | h_7 hop => exact encode_of_regD_value hop h ⟨rfl, rfl⟩
  -- POLY_MUL and POLY_MOD.
  case h_5 hop | h_6 hop => exact encode_of_regs hop h ⟨rfl, rfl⟩
  -- SEG_CLASSIFY, SEG_COST, SEG_WRITE and MX_SCORE.
  case h_8 hop | h_9 hop | h_10 hop | h_19 hop => exact encode_of_index hop h ⟨rfl, rfl⟩
  -- BB_PUT, BB_EOM and BB_PAD.
  case h_12 hop | h_13 hop | h_14 hop => exact encode_of_value hop h ⟨rfl, rfl⟩
  -- MX_TRIAL.
  case h_18 hop =>
    refine encode_of_formatI hop h fun hz => ⟨decide_eq_true (imm4_lt w), congrArg (encI _) ?_⟩
    obtain ⟨hlow, hhigh⟩ : w.extractLsb' 20 4 = 0 ∧ w.extractLsb' 25 7 = 0 := by simpa using hz
    exact ((imm16_eq_trial_iff (imm4_lt w) _ w).2 ⟨hlow, hhigh, rfl, rfl⟩).symm
  -- MX_COMMIT.
  case h_21 hop =>
    refine encode_of_formatI hop h fun hz => ⟨decide_eq_true (imm4_lt w), congrArg (encI _) ?_⟩
    exact ((imm16_eq_commit_iff (imm4_lt w) _ w).2 ⟨of_decide_eq_true hz, rfl, rfl⟩).symm
  -- An unassigned opcode.
  case h_25 => cases h

/-! ## The rows of the opcode table -/

section
open Machine Laws.EncodingMatchesTable

variable {s : State} {w : Word} {i : Instr}

theorem encode_matches_row : ∀ i, Statement i
  | .nop => nop
  | .gfLog => gfLog
  | .gfExp => gfExp
  | .polyNorm d shift => polyNorm d shift
  | .polyMul d a b => polyMul d a b
  | .polyMod d a b => polyMod d a b
  | .polyGen d n => polyGen d n
  | .segClassify seg => segClassify seg
  | .segCost seg => segCost seg
  | .segWrite seg => segWrite seg
  | .bbClear => bbClear
  | .bbPut width => bbPut width
  | .bbEom maxBits => bbEom maxBits
  | .bbPad target => bbPad target
  | .ecInfo => ecInfo
  | .rsAssemble => rsAssemble
  | .mxTemplate => mxTemplate
  | .mxTrial mask test => mxTrial mask test
  | .mxScore mask => mxScore mask
  | .mxEval => mxEval
  | .mxCommit mask useBest => mxCommit mask useBest
  | .mxRead => mxRead
  | .verSelect => verSelect
  | .encode => Laws.EncodingMatchesTable.encode

theorem tableRow_mem_opcodeRows (i : Instr) : tableRow i ∈ opcodeRows := by
  cases i <;> simp [tableRow, opcodeRows]

theorem exists_tableRow_of_mem : ∀ row ∈ opcodeRows, ∃ i, tableRow i = row := by
  simp only [opcodeRows, List.forall_mem_cons]
  exact ⟨⟨.nop, rfl⟩, ⟨.gfLog, rfl⟩, ⟨.gfExp, rfl⟩, ⟨.polyNorm 0 0, rfl⟩, ⟨.polyMul 0 0 0, rfl⟩, ⟨.polyMod 0 0 0, rfl⟩,
    ⟨.polyGen 0 0, rfl⟩, ⟨.segClassify 0, rfl⟩, ⟨.segCost 0, rfl⟩, ⟨.segWrite 0, rfl⟩, ⟨.bbClear, rfl⟩, ⟨.bbPut 0, rfl⟩,
    ⟨.bbEom 0, rfl⟩, ⟨.bbPad 0, rfl⟩, ⟨.ecInfo, rfl⟩, ⟨.rsAssemble, rfl⟩, ⟨.mxTemplate, rfl⟩, ⟨.mxTrial 0 false, rfl⟩,
    ⟨.mxScore 0, rfl⟩, ⟨.mxEval, rfl⟩, ⟨.mxCommit 0 false, rfl⟩, ⟨.mxRead, rfl⟩, ⟨.verSelect, rfl⟩, ⟨.encode, rfl⟩,
    List.forall_mem_nil _⟩

/-- A field that a row's mask covers is the field of the row's match. -/
theorem extract_of_masked {w m c : Word} (h : w &&& m = c) (k n : Nat)
    (hm : m.extractLsb' k n = BitVec.allOnes n) : w.extractLsb' k n = c.extractLsb' k n := by
  rw [← h, BitVec.extractLsb'_and, hm, BitVec.and_allOnes]

theorem opcodeRows_fix_op : ∀ row ∈ opcodeRows,
    row.2.extractLsb' 0 8 = BitVec.allOnes 8 ∧ (row.1.extractLsb' 0 8).toNat = row.1.toNat := by
  simp [opcodeRows]

theorem op_of_row (h : w &&& (tableRow i).2 = (tableRow i).1) : (op w).toNat = (tableRow i).1.toNat := by
  obtain ⟨hmask, hmatch⟩ := opcodeRows_fix_op _ (tableRow_mem_opcodeRows i)
  rw [op, extract_of_masked h 0 8 hmask, hmatch]

/-- A row's mask covers the must-be-zero fields of its format and those that R104 restricts. -/
theorem decodes_of_row (h : w &&& (tableRow i).2 = (tableRow i).1) : ∃ j, decode w = .ok j := by
  have hop := op_of_row h
  cases i <;> simp only [tableRow] at h hop <;> simp only [decode, hop]
  case nop | gfLog | gfExp | bbClear | ecInfo | rsAssemble | mxTemplate | mxEval | mxRead | verSelect | encode =>
    have hmbz : w.extractLsb' 8 24 = 0 := extract_of_masked h 8 24 rfl
    exact ⟨_, formatN_eq_ok_iff.2 ⟨hmbz, rfl⟩⟩
  case polyNorm | polyGen =>
    have hmbz : w.extractLsb' 14 2 = 0 := extract_of_masked h 14 2 rfl
    have hregs : w.extractLsb' 10 4 = 0 := extract_of_masked h 10 4 rfl
    exact ⟨_, formatP_eq_ok_iff.2 ⟨hmbz, decide_eq_true hregs, rfl⟩⟩
  case polyMul | polyMod =>
    have hmbz : w.extractLsb' 14 2 = 0 := extract_of_masked h 14 2 rfl
    have himm : imm16 w = 0 := congrArg BitVec.toNat (extract_of_masked h 16 16 rfl)
    exact ⟨_, formatP_eq_ok_iff.2 ⟨hmbz, decide_eq_true himm, rfl⟩⟩
  case segClassify | segCost | segWrite | mxScore =>
    have hmbz : w.extractLsb' 8 8 = 0 := extract_of_masked h 8 8 rfl
    have hhigh : w.extractLsb' 20 12 = 0 := extract_of_masked h 20 12 rfl
    exact ⟨_, formatI_eq_ok_iff.2 ⟨hmbz, decide_eq_true hhigh, rfl⟩⟩
  case bbPut | bbEom | bbPad =>
    have hmbz : w.extractLsb' 8 8 = 0 := extract_of_masked h 8 8 rfl
    exact ⟨_, formatI_eq_ok_iff.2 ⟨hmbz, rfl, rfl⟩⟩
  case mxTrial =>
    have hmbz : w.extractLsb' 8 8 = 0 := extract_of_masked h 8 8 rfl
    have hlow : w.extractLsb' 20 4 = 0 := extract_of_masked h 20 4 rfl
    have hhigh : w.extractLsb' 25 7 = 0 := extract_of_masked h 25 7 rfl
    exact ⟨_, formatI_eq_ok_iff.2 ⟨hmbz, by simp [hlow, hhigh], rfl⟩⟩
  case mxCommit =>
    have hmbz : w.extractLsb' 8 8 = 0 := extract_of_masked h 8 8 rfl
    have hhigh : w.extractLsb' 21 11 = 0 := extract_of_masked h 21 11 rfl
    exact ⟨_, formatI_eq_ok_iff.2 ⟨hmbz, decide_eq_true hhigh, rfl⟩⟩

theorem decodes_iff_matches_row (w : Word) : (∃ i, decode w = .ok i) ↔ ∃ row ∈ opcodeRows, w &&& row.2 = row.1 := by
  constructor
  · rintro ⟨i, h⟩
    obtain ⟨rfl, hwf⟩ := encodeOfDecode w i h
    exact ⟨tableRow i, tableRow_mem_opcodeRows i, encode_matches_row i hwf⟩
  · rintro ⟨row, hmem, h⟩
    obtain ⟨i, rfl⟩ := exists_tableRow_of_mem row hmem
    exact decodes_of_row h

/-- A command in flight whose word is no command ends with ERR_ILLEGAL (`30_encoding.md` R105, R106). -/
theorem step_of_not_decodes (hs : s.inFlight = some { word := w, left := 0 }) (hd : ¬ ∃ i, decode w = .ok i) :
    step s = .next (s.failed 0x01) := by
  cases h : decode w with
  | ok i => exact absurd ⟨i, h⟩ hd
  | error e => simp only [step, hs, if_true, runWord, h]; rfl

end

/-- Settles O2: a word that decodes is an encoding, which matches its command's row, and a row's mask covers every field
the decoder asks to be zero. -/
theorem onlyTableWordsDecode : Obligations.OnlyTableWordsDecode := by
  refine ⟨decodes_iff_matches_row, fun s w hs hrow => step_of_not_decodes hs fun hd => ?_⟩
  obtain ⟨row, hmem, h⟩ := (decodes_iff_matches_row w).1 hd
  exact hrow row hmem h

/-- Settles O5: the decoder run on each word. -/
theorem sampleWordsDecode : Obligations.SampleWordsDecode := by
  unfold Obligations.SampleWordsDecode
  decide

end Sys2Proof

/-! The GF(256) unit and the constant tables: what the ROMs hold, the two commands that read them, and the parameters'
defaults (`40_gf.md`, `42_segment.md` R160, R161, `44_codeword.md` R201, R204, `45_matrix.md` R238, R241). -/

namespace Sys2Proof.Machine

/-! ## Words of an opcode with a must-be-zero bit set -/

/-- A must-be-zero bit that every row of the opcode masks to 0 makes the word match no row (`30_encoding.md` R105). -/
theorem illegalWhere_of_rows {op : Byte} {mbz : Word}
    (hrows : ∀ row ∈ opcodeRows, row.1.extractLsb' 0 8 = op → row.2 &&& mbz = mbz ∧ row.1 &&& mbz = 0) :
    IllegalWhere op mbz := by
  intro s w hs hop hbit
  refine step_of_not_decodes hs fun hd => hbit ?_
  obtain ⟨row, hmem, hrow⟩ := (decodes_iff_matches_row w).1 hd
  have hrowOp : row.1.extractLsb' 0 8 = op :=
    (extract_of_masked hrow 0 8 (opcodeRows_fix_op row hmem).1).symm.trans hop
  obtain ⟨hmask, hmatch⟩ := hrows row hmem hrowOp
  calc w &&& mbz = w &&& (row.2 &&& mbz) := by rw [hmask]
    _ = row.1 &&& mbz := by rw [← BitVec.and_assoc, hrow]
    _ = 0 := hmatch

/-! ## The ROMs -/

set_option maxRecDepth 20000 in
/-- The EXP ROM's recurrence, x^8 = x^4 + x^3 + x^2 + 1 (`40_gf.md` R130). -/
theorem expRom_recurrence : ∀ i, i < 256 → 8 ≤ i →
    expRom i = expRom (i - 4) ^^^ expRom (i - 5) ^^^ expRom (i - 6) ^^^ expRom (i - 8) := by decide

set_option maxRecDepth 20000 in
/-- The LOG ROM inverts the EXP ROM on the exponents (`40_gf.md` R131). -/
theorem logRom_expRom : ∀ i, i < 255 → (logRom (expRom i).toNat).toNat = i := by decide

set_option maxRecDepth 20000 in
/-- The EXP ROM inverts the LOG ROM on the nonzero elements (`40_gf.md` R131). -/
theorem expRom_logRom : ∀ n, n < 256 → 1 ≤ n →
    (logRom n).toNat < 255 ∧ (expRom (logRom n).toNat).toNat = n := by decide

theorem State.byteAt_expRom (s : State) {i : Nat} (hi : i < 256) : s.byteAt (0x001000 + i) = expRom i := by
  have hw := windowOf_expRom (a := 0x001000 + i) (by omega)
  simp [State.byteAt, byteOf, Memory.get, Memory.writable, Memory.unlisted, hw]

theorem State.byteAt_logRom (s : State) {i : Nat} (hi : i < 256) : s.byteAt (0x001100 + i) = logRom i := by
  have hw := windowOf_logRom (a := 0x001100 + i) (by omega)
  simp [State.byteAt, byteOf, Memory.get, Memory.writable, Memory.unlisted, hw]

/-! ## GF_LOG and GF_EXP -/

theorem glog_eq_ok {n : Nat} (h1 : 1 ≤ n) (h2 : n ≤ 255) : glog n = .ok (logRom n).toNat := if_neg (by omega)

theorem glog_eq_error {n : Nat} (h : n = 0 ∨ 255 < n) : glog n = .error .domainLog := if_pos (by omega)

theorem ruleGfLog_ok {s : State} {k : Nat} (h : glog s.arg0.toNat = .ok k) :
    ruleGfLog s = .ok { s with result := BitVec.ofNat 32 k } := by rw [ruleGfLog, h]

theorem ruleGfLog_error {s : State} {e : ErrCode} (h : glog s.arg0.toNat = .error e) : ruleGfLog s = .error e := by
  rw [ruleGfLog, h]

theorem gexp_of_euclidean {n q : Int} {k : Nat} (hk : k < 255) (h : n = 255 * q + k) : gexp n = expRom k := by
  have hmod : n % 255 = k := by omega
  rw [gexp, hmod, Int.toNat_natCast]

theorem exec_gfExp (s : State) :
    exec .gfExp s = .next { s.completed with result := (gexp s.arg0.toInt).setWidth 32 } := rfl

/-- Settles O7: the LOG ROM's entry of a nonzero element is its exponent, and 0 and what is no byte have none. -/
theorem gfLogResult : Obligations.GfLogResult := by
  refine ⟨fun s n h1 h2 hn => ?_, fun s h => complete_error (ruleGfLog_error (glog_eq_error h)),
    illegalWhere_of_rows (by simp [opcodeRows])⟩
  obtain ⟨hlt, hexp⟩ := expRom_logRom n (by omega) h1
  exact ⟨(logRom n).toNat, hlt, hexp, complete_ok (ruleGfLog_ok (hn.symm ▸ glog_eq_ok h1 h2))⟩

/-- Settles O8: the exponent modulo 255 is the Euclidean remainder, which every exponent has. -/
theorem gfExpResult : Obligations.GfExpResult := by
  refine ⟨fun s k q hk h => ?_, fun s => ?_, illegalWhere_of_rows (by simp [opcodeRows])⟩
  · rw [exec_gfExp, gexp_of_euclidean hk h]
  · exact ⟨(s.arg0.toInt % 255).toNat, s.arg0.toInt / 255, by omega, by omega⟩

/-! ## The parameters' defaults -/

/-- A row of EC_TABLE as `44_codeword.md` R201 and R204 bound it: one group, or two of which the second has one data
codeword more, with the same number of error codewords in every block. -/
abbrev EcGroupsBounded (gs : List EcGroup) : Prop :=
  (gs.length = 1 ∨ gs.length = 2) ∧
  (∀ g ∈ gs, g.data < g.total ∧ 1 ≤ g.data ∧ 1 ≤ g.count ∧
    some (g.total - g.data) = (gs.map fun h => h.total - h.data).head?) ∧
  (∀ a ∈ gs.head?, ∀ b ∈ gs.tail, b.total = a.total + 1 ∧ b.data = a.data + 1) ∧
  blockCount gs ≤ 81 ∧ totalCount gs ≤ 3706 ∧ 8 * dataCount gs ≤ 23648

theorem ecTableRows_bounded : ∀ row ∈ ecTableRows,
    EcGroupsBounded row.l ∧ EcGroupsBounded row.m ∧ EcGroupsBounded row.q ∧ EcGroupsBounded row.h := by decide

/-- A version's row stands in the table, and a level picks one of the row's four fields. -/
theorem ecGroups_bounded {v : Nat} (hv : v ∈ List.range' 1 40) (lvl : BitVec 2) :
    EcGroupsBounded (Params.default.ecGroups v lvl) := by
  have hlt : v - 1 < ecTableRows.length := by
    rw [List.mem_range'_1] at hv
    change v - 1 < 40
    omega
  obtain ⟨hl, hm, hq, hh⟩ := ecTableRows_bounded _ (List.getElem_mem hlt)
  have hrow : Params.default.ecGroups v lvl = ecTableRows[v - 1].groups lvl :=
    congrArg (EcRow.groups · lvl) (List.getD_eq_getElem _ _ hlt)
  rw [hrow, EcRow.groups]
  split
  · exact hm
  · exact hl
  · exact hh
  · exact hq

theorem lengthWidth_default_of_le_9 {v : Nat} (h : v ≤ 9) (m : Nat) :
    lengthWidth Params.default m v = ByMode.at ⟨10, 9, 8⟩ m := by
  rw [lengthWidth, if_pos h]; rfl

theorem lengthWidth_default_of_le_26 {v : Nat} (h1 : 10 ≤ v) (h2 : v ≤ 26) (m : Nat) :
    lengthWidth Params.default m v = ByMode.at ⟨12, 11, 16⟩ m := by
  rw [lengthWidth, if_neg (by omega), if_pos h2]; rfl

theorem lengthWidth_default_of_ge_27 {v : Nat} (h : 27 ≤ v) (m : Nat) :
    lengthWidth Params.default m v = ByMode.at ⟨14, 13, 16⟩ m := by
  rw [lengthWidth, if_neg (by omega), if_neg (by omega)]; rfl

/-- Settles O6: the ROMs' and EC_TABLE's properties entry by entry, the listed values by evaluation. -/
theorem constantTables : Obligations.ConstantTables := by
  refine ⟨fun s i hi => ⟨s.byteAt_expRom hi, s.byteAt_logRom hi⟩, by decide, fun i h8 hi => expRom_recurrence i hi h8,
    rfl, logRom_expRom, rfl, default_params_fit, fun v hv lvl => ecGroups_bounded hv lvl, by decide, fun v _ h => ?_,
    fun v h1 h2 => ?_, fun v h _ => ?_, by decide, by decide, by decide, by decide, by decide⟩
  · simp only [lengthWidth_default_of_le_9 h]; rfl
  · simp only [lengthWidth_default_of_le_26 h1 h2]; rfl
  · simp only [lengthWidth_default_of_ge_27 h]; rfl

end Sys2Proof.Machine

/-! The polynomial commands (`41_poly.md`): their rules in terms of their operands, normal forms, and where they fail. -/

namespace Sys2Proof.Machine

/-! ## Operands and outcomes -/

theorem polyOperand_of_empty {s : State} {k : PReg} (h : (s.plen.get k).toNat = 0) :
    polyOperand s k = .error .domainEmpty := by
  rw [polyOperand_eq, if_pos h]

theorem polyOperand_of_long {s : State} {k : PReg} (h0 : (s.plen.get k).toNat ≠ 0)
    (h : s.params.polyMax < (s.plen.get k).toNat) : polyOperand s k = .error .hwPolyLen := by
  rw [polyOperand_eq, if_neg h0, if_pos h]

theorem polyOperand_of_fits {s : State} {k : PReg} (h1 : 1 ≤ (s.plen.get k).toNat)
    (h : (s.plen.get k).toNat ≤ s.params.polyMax) : polyOperand s k = .ok (s.poly k) := by
  rw [polyOperand_eq, if_neg (by omega), if_neg (by omega)]

/-- A command whose rule writes back a result completes with it. -/
theorem complete_writePoly {rule : Rule} {s : State} {d : PReg} {r : List Byte} (h : rule s = .ok (writePoly s d r))
    (hr : r.length ≤ 256) : ∃ t, complete s rule = .next t ∧ s.WrotePoly t d r :=
  ⟨_, complete_ok h, writePoly_wrote s d r hr⟩

/-- The rule of a command with two operands: A's check, B's check, the operation, the write-back
(`41_poly.md` R141, R146). -/
def twoOperandRule (op : List Byte → List Byte → Except ErrCode (List Byte)) (d a b : PReg) : Rule := fun s =>
  (polyOperand s a).bind fun p => (polyOperand s b).bind fun q => (op p q).map (writePoly s d)

section
variable {s : State} {d a b : PReg} {op : List Byte → List Byte → Except ErrCode (List Byte)} {e : ErrCode}
  {p q r : List Byte}

theorem rulePolyNorm_eq (s : State) (d : PReg) (shift : Nat) :
    rulePolyNorm d shift s =
      (polyOperand s d).bind fun p => (norm s.params.polyMax p shift).map (writePoly s d) := by
  rw [rulePolyNorm]
  cases polyOperand s d with
  | error e => rfl
  | ok p => simp only [Except.bind]; cases norm s.params.polyMax p shift <;> rfl

theorem rulePolyNorm_operand_error {shift : Nat} (h : polyOperand s d = .error e) :
    rulePolyNorm d shift s = .error e := by
  rw [rulePolyNorm_eq, h]; rfl

theorem rulePolyMul_eq (s : State) (d a b : PReg) :
    rulePolyMul d a b s = twoOperandRule (polyMul s.params.polyMax) d a b s := by
  rw [rulePolyMul, twoOperandRule]
  cases polyOperand s a with
  | error e => rfl
  | ok p =>
    cases polyOperand s b with
    | error e => rfl
    | ok q => simp only [Except.bind]; cases polyMul s.params.polyMax p q <;> rfl

theorem rulePolyMod_eq (s : State) (d a b : PReg) : rulePolyMod d a b s = twoOperandRule polyMod d a b s := by
  rw [rulePolyMod, twoOperandRule]
  cases polyOperand s a with
  | error e => rfl
  | ok p =>
    cases polyOperand s b with
    | error e => rfl
    | ok q => simp only [Except.bind]; cases polyMod p q <;> rfl

/-- POLY_MUL and POLY_MOD differ in their operation only. -/
theorem exec_twoOperand {i : Instr} (hi : i = .polyMul d a b ∨ i = .polyMod d a b) (s : State) :
    ∃ op, exec i s = complete s (twoOperandRule op d a b) := by
  rcases hi with rfl | rfl
  · exact ⟨_, congrArg (fun effect => Host.Outcome.next (s.finish effect)) (rulePolyMul_eq s d a b)⟩
  · exact ⟨_, congrArg (fun effect => Host.Outcome.next (s.finish effect)) (rulePolyMod_eq s d a b)⟩

theorem twoOperandRule_error_a (ha : polyOperand s a = .error e) : twoOperandRule op d a b s = .error e := by
  rw [twoOperandRule, ha]; rfl

theorem twoOperandRule_error_b (ha : polyOperand s a = .ok p) (hb : polyOperand s b = .error e) :
    twoOperandRule op d a b s = .error e := by
  rw [twoOperandRule, ha, hb]; rfl

theorem twoOperandRule_op_error (ha : polyOperand s a = .ok p) (hb : polyOperand s b = .ok q)
    (h : op p q = .error e) : twoOperandRule op d a b s = .error e := by
  simp only [twoOperandRule, ha, hb, Except.bind, h, Except.map]

theorem twoOperandRule_ok (ha : polyOperand s a = .ok p) (hb : polyOperand s b = .ok q) (h : op p q = .ok r) :
    twoOperandRule op d a b s = .ok (writePoly s d r) := by
  simp only [twoOperandRule, ha, hb, Except.bind, h, Except.map]

end

/-! ## Normal forms -/

/-- A sequence is all zeros, or has a first nonzero coefficient. -/
theorem zeros_or_leading (p : List Byte) :
    (∃ z, p = List.replicate z 0) ∨ ∃ z c q, p = List.replicate z 0 ++ c :: q ∧ c ≠ 0 := by
  induction p with
  | nil => exact .inl ⟨0, rfl⟩
  | cons c rest ih =>
    by_cases hc : c = 0
    · subst hc
      rcases ih with ⟨z, rfl⟩ | ⟨z, c, q, rfl, hc⟩
      · exact .inl ⟨z + 1, rfl⟩
      · exact .inr ⟨z + 1, c, q, rfl, hc⟩
    · exact .inr ⟨0, c, rest, rfl, hc⟩

theorem normBody_of_leading (z : Nat) {c : Byte} (q : List Byte) (hc : c ≠ 0) (shift : Nat) :
    normBody (List.replicate z 0 ++ c :: q) shift = c :: q ++ List.replicate shift 0 := by
  rw [normBody, stripZeros_eq z c q hc]
  rfl

theorem normBody_of_zeros (z shift : Nat) :
    normBody (List.replicate z 0) shift = if shift = 0 then [0] else List.replicate shift 0 := by
  simp only [normBody, stripZeros_replicate, List.nil_append, List.length_replicate]

/-- A sequence with a nonzero leading coefficient is its own normal form. -/
theorem normBody_of_head {p : List Byte} (h : p.headD 0 ≠ 0) : normBody p 0 = p := by
  cases p with
  | nil => exact absurd rfl h
  | cons c q => simpa using normBody_of_leading 0 q h 0

theorem isNorm_normBody {p : List Byte} (h : p.length ≠ 0) : IsNorm p (normBody p 0) := by
  rcases zeros_or_leading p with ⟨z, rfl⟩ | ⟨z, c, q, rfl, hc⟩
  · rw [List.length_replicate] at h
    obtain ⟨y, rfl⟩ := Nat.exists_eq_succ_of_ne_zero h
    exact .inr ⟨y, rfl, normBody_of_zeros _ 0⟩
  · rw [normBody_of_leading z q hc, List.replicate_zero, List.append_nil]
    exact .inl ⟨z, rfl, c, q, rfl, hc⟩

theorem norm_of_long {limit shift : Nat} {p : List Byte} (h0 : p.length ≠ 0)
    (h : limit < max 1 ((stripZeros p).length + shift)) : norm limit p shift = .error .hwPolyLen := by
  rw [norm, if_neg h0, if_pos h]

theorem norm_of_fits {limit shift : Nat} {p : List Byte} (h0 : p.length ≠ 0)
    (h : max 1 ((stripZeros p).length + shift) ≤ limit) : norm limit p shift = .ok (normBody p shift) := by
  rw [norm, if_neg h0, if_neg (by omega)]

/-! ## POLY_NORM -/

/-- POLY_NORM's operand is the register's polynomial where its length, that of a nonempty sequence, is in range. -/
theorem rulePolyNorm_of_poly {s : State} {d : PReg} {p : List Byte} (hp : s.poly d = p) (h0 : p.length ≠ 0)
    (hmax : (s.plen.get d).toNat ≤ s.params.polyMax) (shift : Nat) :
    rulePolyNorm d shift s = (norm s.params.polyMax p shift).map (writePoly s d) := by
  have hlen := State.poly_length s d
  rw [hp] at hlen
  rw [rulePolyNorm_eq, polyOperand_of_fits (by omega) hmax, hp]
  rfl

theorem rulePolyNorm_of_fits {s : State} {d : PReg} {p : List Byte} {shift : Nat} (hp : s.poly d = p)
    (h0 : p.length ≠ 0) (hmax : (s.plen.get d).toNat ≤ s.params.polyMax)
    (h : max 1 ((stripZeros p).length + shift) ≤ s.params.polyMax) :
    rulePolyNorm d shift s = .ok (writePoly s d (normBody p shift)) := by
  rw [rulePolyNorm_of_poly hp h0 hmax, norm_of_fits h0 h]
  rfl

theorem rulePolyNorm_of_long {s : State} {d : PReg} {p : List Byte} {shift : Nat} (hp : s.poly d = p)
    (h0 : p.length ≠ 0) (hmax : (s.plen.get d).toNat ≤ s.params.polyMax)
    (h : s.params.polyMax < max 1 ((stripZeros p).length + shift)) :
    rulePolyNorm d shift s = .error .hwPolyLen := by
  rw [rulePolyNorm_of_poly hp h0 hmax, norm_of_long h0 h]
  rfl

/-- Where POLY_NORM's result fits, it is the normal form of the operand. -/
theorem exec_polyNorm {s : State} {d : PReg} {p : List Byte} {shift : Nat} (hfit : s.params.Fits)
    (hp : s.poly d = p) (h0 : p.length ≠ 0) (hmax : (s.plen.get d).toNat ≤ s.params.polyMax)
    (h : max 1 ((stripZeros p).length + shift) ≤ s.params.polyMax) :
    ∃ t, exec (.polyNorm d shift) s = .next t ∧ s.WrotePoly t d (normBody p shift) :=
  complete_writePoly (rulePolyNorm_of_fits hp h0 hmax h) (by
    rw [normBody_length]
    exact h.trans hfit.1)

/-- Settles O9: the two shapes of an operand, by what each strips to. -/
theorem polyNormResult : Obligations.PolyNormResult := by
  refine ⟨fun s d shift z c q hfit hp hc hmax hlen => ?_, fun s d shift z hfit hp hmax hlen => ?_⟩
  · have h := exec_polyNorm (shift := shift) hfit hp (by simp) hmax (by
      rw [stripZeros_eq z c q hc, List.length_cons]
      omega)
    rwa [normBody_of_leading z q hc] at h
  · have hpos : 1 ≤ s.params.polyMax := by
      rw [← State.poly_length, hp, List.length_replicate] at hmax
      omega
    have h := exec_polyNorm (shift := shift) hfit hp (by simp) hmax (by
      rw [stripZeros_replicate, List.length_nil]
      omega)
    rwa [normBody_of_zeros] at h

/-! ## Products and remainders that meet a zero coefficient -/

theorem glog_zero {c : Byte} (h : c = 0) : glog c.toNat = .error .domainLog := glog_eq_error (.inl (by simp [h]))

theorem glog_of_ne_zero {c : Byte} (h : c ≠ 0) : glog c.toNat = .ok (logRom c.toNat).toNat := by
  have h0 : c.toNat ≠ 0 := fun h0 => h (BitVec.eq_of_toNat_eq h0)
  exact glog_eq_ok (by omega) (by omega)

/-- The logarithms of a sequence exist or fail with ERR_DOMAIN_LOG. -/
theorem glogs_cases (p : List Byte) :
    (∀ c ∈ p, c ≠ 0) ∧ glogs p = .ok (p.map fun c => (logRom c.toNat).toNat) ∨
      0 ∈ p ∧ glogs p = .error .domainLog := by
  by_cases h0 : 0 ∈ p
  · exact .inr ⟨h0, glogs_error h0⟩
  · have h : ∀ c ∈ p, c ≠ 0 := fun c hc => ne_of_mem_of_not_mem hc h0
    exact .inl ⟨h, glogs_ok h⟩

theorem polyProduct_of_zero {a b : List Byte} (h : 0 ∈ a ∨ 0 ∈ b) : polyProduct a b = .error .domainLog := by
  rw [polyProduct]
  rcases glogs_cases a with ⟨ha, hla⟩ | ⟨-, hla⟩
  · rw [hla, glogs_error (h.resolve_left fun h0 => ha 0 h0 rfl)]
  · rw [hla]

theorem polyMul_of_long {limit : Nat} {a b : List Byte} (h : limit < a.length + b.length - 1) :
    polyMul limit a b = .error .hwPolyLen := if_pos h

theorem polyMul_of_fits {limit : Nat} {a b : List Byte} (h : a.length + b.length - 1 ≤ limit) :
    polyMul limit a b = polyProduct a b := if_neg (by omega)

theorem polyMul_of_zero {limit : Nat} {a b : List Byte} (hlen : a.length + b.length - 1 ≤ limit)
    (h : 0 ∈ a ∨ 0 ∈ b) : polyMul limit a b = .error .domainLog := by
  rw [polyMul_of_fits hlen, polyProduct_of_zero h]

theorem polyModStep_of_zero {s dv : List Byte} (h : s.headD 0 = 0 ∨ 0 ∈ dv) :
    polyModStep s dv = .error .domainLog := by
  rw [polyModStep]
  by_cases hs : s.headD 0 = 0
  · rw [glog_zero hs]
  · rw [glog_of_ne_zero hs, glogs_error (h.resolve_left hs)]

/-- The loop's first iteration decides whether a logarithm is missing. -/
theorem polyMod_of_zero {s dv : List Byte} (hlen : dv.length ≤ s.length) (hs : s ≠ [0])
    (h : s.headD 0 = 0 ∨ 0 ∈ dv) : polyMod s dv = .error .domainLog := by
  rw [polyMod, polyModLoop, if_neg (by simp only [not_or]; exact ⟨by omega, hs⟩), polyModStep_of_zero h]

/-- Settles O13: the operands' checks for each command, then the operation's. -/
theorem polyErrors : Obligations.PolyErrors := by
  refine ⟨fun s d shift => ⟨fun h0 => ?_, fun h0 hmax => ?_, fun z c q hp hc hmax hlen => ?_, fun z hp hmax hlen => ?_⟩,
    fun s i d a b hi => ?_, fun s d a b ha1 ha hb1 hb => ?_⟩
  · exact complete_error (rulePolyNorm_operand_error (polyOperand_of_empty h0))
  · exact complete_error (rulePolyNorm_operand_error (polyOperand_of_long h0 hmax))
  · refine complete_error (rulePolyNorm_of_long hp (by simp) hmax ?_)
    rw [stripZeros_eq z c q hc, List.length_cons]
    omega
  · refine complete_error (rulePolyNorm_of_long hp (by simp) hmax ?_)
    rw [stripZeros_replicate, List.length_nil]
    omega
  · obtain ⟨op, hop⟩ := exec_twoOperand hi s
    rw [hop]
    refine ⟨fun h0 => ?_, fun h0 hmax => ?_, fun h1 ha => ⟨fun h0 => ?_, fun h0 hmax => ?_⟩⟩
    · exact complete_error (twoOperandRule_error_a (polyOperand_of_empty h0))
    · exact complete_error (twoOperandRule_error_a (polyOperand_of_long h0 hmax))
    · exact complete_error (twoOperandRule_error_b (polyOperand_of_fits h1 ha) (polyOperand_of_empty h0))
    · exact complete_error (twoOperandRule_error_b (polyOperand_of_fits h1 ha) (polyOperand_of_long h0 hmax))
  · have hoa := polyOperand_of_fits ha1 ha
    have hob := polyOperand_of_fits hb1 hb
    simp only [← State.poly_length] at ha1 ha hb1 hb ⊢
    refine ⟨fun hlen => ?_, fun hlen hzero => ?_, fun hlen hs hzero => ?_⟩
    · exact complete_error
        ((rulePolyMul_eq s d a b).trans (twoOperandRule_op_error hoa hob (polyMul_of_long (by omega))))
    · exact complete_error
        ((rulePolyMul_eq s d a b).trans (twoOperandRule_op_error hoa hob (polyMul_of_zero (by omega) hzero)))
    · exact complete_error
        ((rulePolyMod_eq s d a b).trans (twoOperandRule_op_error hoa hob (polyMod_of_zero hlen hs hzero)))

end Sys2Proof.Machine

/-! The product of two polynomials, coefficient by coefficient (`41_poly.md` R143). -/

namespace Sys2Proof.Machine

/-! ## Terms -/

theorem gexp_natCast (n : Nat) : gexp n = expRom (n % 255) := by
  rw [gexp, show ((n : Int) % 255).toNat = n % 255 by omega]

/-- The LOG ROM's entry of a nonzero element is an exponent, and the EXP ROM leads back. -/
theorem expRom_logRom_of_ne_zero {c : Byte} (h : c ≠ 0) :
    (logRom c.toNat).toNat < 255 ∧ expRom (logRom c.toNat).toNat = c := by
  have h0 : c.toNat ≠ 0 := fun h0 => h (BitVec.eq_of_toNat_eq h0)
  obtain ⟨hlt, hexp⟩ := expRom_logRom c.toNat c.isLt (by omega)
  exact ⟨hlt, BitVec.eq_of_toNat_eq hexp⟩

set_option maxRecDepth 20000 in
theorem expRom_ne_zero : ∀ i, i < 256 → expRom i ≠ 0 := by decide

theorem gfTerm_ne_zero (a b : Byte) : gfTerm a b ≠ 0 := expRom_ne_zero _ (by omega)

/-! ## Coefficients -/

theorem headD_eq_getD (p : List Byte) : p.headD 0 = p.getD 0 0 := by cases p <;> rfl

theorem xorAlign_getD (p q : List Byte) (k : Nat) : (xorAlign p q).getD k 0 = p.getD k 0 ^^^ q.getD k 0 := by
  induction p, q using xorAlign.induct generalizing k with
  | case1 q => simp [xorAlign]
  | case2 p hp => simp [xorAlign]
  | case3 c p d q ih =>
    cases k with
    | zero => rfl
    | succ k => exact ih k

/-- A term of a product's coefficient `k`: the cross term of coefficient `x` of one factor with coefficient `k` of the
other, where that has one. -/
def crossTermAt (x : Byte) (b : List Byte) (k : Nat) : Byte := if k < b.length then gfTerm x (b.getD k 0) else 0

/-- The cross terms up to coefficient `k` may start from any accumulated value. -/
theorem foldl_xor_init (f : Nat → Byte) (P : Nat → Prop) [DecidablePred P] (l : List Nat) (x : Byte) :
    l.foldl (fun acc i => if P i then acc ^^^ f i else acc) x =
      x ^^^ l.foldl (fun acc i => if P i then acc ^^^ f i else acc) 0 := by
  induction l generalizing x with
  | nil => simp
  | cons i l ih =>
    rw [List.foldl_cons, List.foldl_cons, ih, ih (if P i then 0 ^^^ f i else 0), ← BitVec.xor_assoc]
    split <;> simp

/-- A product's leading coefficient is one cross term. -/
theorem productCoeff_cons_zero (x : Byte) (a b : List Byte) : productCoeff (x :: a) b 0 = crossTermAt x b 0 := by
  rw [productCoeff, List.length_cons, List.range_succ_eq_map, List.foldl_cons, List.foldl_map,
    List.foldl_fixed' fun i => if_neg (by omega)]
  simp [crossTermAt]

/-- A product's other coefficients, from the leading coefficient of its first factor and the product without it. -/
theorem productCoeff_cons_succ (x : Byte) (a b : List Byte) (k : Nat) :
    productCoeff (x :: a) b (k + 1) = crossTermAt x b (k + 1) ^^^ productCoeff a b k := by
  rw [productCoeff, List.length_cons, List.range_succ_eq_map, List.foldl_cons, foldl_xor_init, List.foldl_map]
  congr 1
  · simp [crossTermAt]
  · simp only [Nat.succ_eq_add_one, Nat.add_le_add_iff_right, Nat.add_sub_add_right, List.getD_cons_succ,
      productCoeff]

/-- The logarithms of a sequence, as `glogs` gives them where no coefficient is 0. -/
def logs (p : List Byte) : List Nat := p.map fun c => (logRom c.toNat).toNat

@[simp] theorem logs_length (p : List Byte) : (logs p).length = p.length := by simp [logs]

theorem gexp_logs_getD (x : Byte) (b : List Byte) (k : Nat) :
    ((logs b).map fun (lb : Nat) => gexp ((logRom x.toNat).toNat + lb)).getD k 0 = crossTermAt x b k := by
  by_cases hk : k < b.length
  · rw [crossTermAt, if_pos hk]
    simp only [logs, List.getD_eq_getElem?_getD, List.getElem?_map, List.getElem?_eq_getElem hk, Option.map_some,
      Option.getD_some]
    exact gexp_natCast _
  · rw [crossTermAt, if_neg hk, List.getD_eq_default _ _ (by simpa using hk)]

/-- The cross terms accumulated by the product are its coefficients. -/
theorem crossTerms_getD (a b : List Byte) (k : Nat) :
    (crossTerms (logs a) (logs b)).getD k 0 = productCoeff a b k := by
  induction a generalizing k with
  | nil => rfl
  | cons x a ih =>
    rw [logs, List.map_cons, crossTerms, ← logs, xorAlign_getD, gexp_logs_getD]
    cases k with
    | zero => rw [productCoeff_cons_zero]; simp
    | succ k => rw [productCoeff_cons_succ, List.getD_cons_succ, ih]

theorem crossTerms_length {a b : List Byte} (ha : a.length ≠ 0) (hb : b.length ≠ 0) :
    (crossTerms (logs a) (logs b)).length = a.length + b.length - 1 := by
  induction a with
  | nil => exact absurd rfl ha
  | cons x a ih =>
    rw [logs, List.map_cons, crossTerms, ← logs, xorAlign_length, List.length_map, logs_length, List.length_cons,
      List.length_cons]
    cases a with
    | nil => simp [logs, crossTerms]; omega
    | cons y a => rw [ih (by simp), List.length_cons]; omega

/-- The product as `41_poly.md` R143 gives it, coefficient by coefficient. -/
def productOf (a b : List Byte) : List Byte := (List.range (a.length + b.length - 1)).map (productCoeff a b)

theorem productOf_length (a b : List Byte) : (productOf a b).length = a.length + b.length - 1 := by
  simp [productOf]

theorem crossTerms_eq_productOf {a b : List Byte} (ha : a.length ≠ 0) (hb : b.length ≠ 0) :
    crossTerms (logs a) (logs b) = productOf a b := by
  refine List.ext_getElem (by rw [crossTerms_length ha hb, productOf_length]) fun k h1 h2 => ?_
  rw [← List.getD_eq_getElem _ 0 h1, crossTerms_getD]
  simp [productOf]

theorem productOf_getD {a b : List Byte} (ha : a.length ≠ 0) (hb : b.length ≠ 0) (k : Nat) :
    (productOf a b).getD k 0 = productCoeff a b k := by
  rw [← crossTerms_eq_productOf ha hb, crossTerms_getD]

/-- The leading coefficient of a product is a term, and terms are not 0: there is nothing to strip. -/
theorem productOf_headD_ne_zero {a b : List Byte} (ha : a.length ≠ 0) (hb : b.length ≠ 0) :
    (productOf a b).headD 0 ≠ 0 := by
  cases a with
  | nil => exact absurd rfl ha
  | cons x a =>
    rw [headD_eq_getD, productOf_getD ha hb, productCoeff_cons_zero, crossTermAt, if_pos (by omega)]
    exact gfTerm_ne_zero _ _

theorem polyProduct_eq {a b : List Byte} (ha : a.length ≠ 0) (hb : b.length ≠ 0) (ha0 : ∀ c ∈ a, c ≠ 0)
    (hb0 : ∀ c ∈ b, c ≠ 0) : polyProduct a b = .ok (productOf a b) := by
  rw [polyProduct, glogs_ok ha0, glogs_ok hb0, ← logs, ← logs]
  simp only [crossTerms_eq_productOf ha hb, normBody_of_head (productOf_headD_ne_zero ha hb)]

/-- Settles O10: without zero coefficients every logarithm exists, and the product's bound is the register's. -/
theorem polyMulResult : Obligations.PolyMulResult := by
  intro s d a b hfit ha1 hb1 hlen ha0 hb0
  have hmax := hfit.1
  have hoa := polyOperand_of_fits ha1 (by omega)
  have hob := polyOperand_of_fits hb1 (by omega)
  simp only [← State.poly_length] at ha1 hb1 hlen ⊢
  refine complete_writePoly ((rulePolyMul_eq s d a b).trans (twoOperandRule_ok hoa hob ?_)) ?_
  · rw [polyMul_of_fits (by omega)]
    exact polyProduct_eq (by omega) (by omega) ha0 hb0
  · exact (productOf_length _ _).trans_le (by omega)

end Sys2Proof.Machine

/-! Division with remainder (`41_poly.md` R144): the modulo loop ends, and does so with the rule's remainder. -/

namespace Sys2Proof.Machine

/-! ## One iteration -/

theorem logs_headD (p : List Byte) : (logs p).headD 0 = (logRom (p.headD 0).toNat).toNat := by cases p <;> rfl

/-- Adding to the logarithm of a nonzero element multiplies it. -/
theorem gfMul_gexp {c : Byte} (hc : c ≠ 0) (n : Int) : gfMul c (gexp n) = gexp ((logRom c.toNat).toNat + n) := by
  have hlt : (n % 255).toNat < 255 := by omega
  have hne : gexp n ≠ 0 := expRom_ne_zero _ (by omega)
  rw [gfMul, if_neg (not_or.2 ⟨hc, hne⟩), gfTerm, gexp, logRom_expRom _ hlt, gexp]
  congr 1
  omega

/-- The factor by which an iteration scales the divisor: the quotient of the leading coefficients. -/
def modFactor (s dv : List Byte) : Byte :=
  gexp ((logRom (s.headD 0).toNat).toNat - ((logRom (dv.headD 0).toNat).toNat : Int))

/-- A polynomial times a field element. -/
def scale (p : List Byte) (x : Byte) : List Byte := p.map fun c => gfMul c x

@[simp] theorem scale_length (p : List Byte) (x : Byte) : (scale p x).length = p.length := by simp [scale]

theorem modIteration_length (s dv : List Byte) : (modIteration s dv).length = s.length := by simp [modIteration]

/-- The rule's iteration, which is by index, adds the scaled divisor to the dividend from its leading coefficient on. -/
theorem modIteration_eq {s dv : List Byte} (hlen : dv.length ≤ s.length) (hdv : ∀ c ∈ dv, c ≠ 0) :
    modIteration s dv = xorAlign s (scale dv (modFactor s dv)) := by
  refine List.ext_getElem ?_ fun k h1 h2 => ?_
  · rw [modIteration_length, xorAlign_length, scale_length]
    omega
  · rw [← List.getD_eq_getElem _ 0 h2, xorAlign_getD]
    simp only [modIteration, List.getElem_map, List.getElem_range, ← headD_eq_getD]
    split
    · rename_i hk
      have hc : dv.getD k 0 ≠ 0 := by
        rw [List.getD_eq_getElem _ _ hk]
        exact hdv _ (List.getElem_mem hk)
      have hscale : (scale dv (modFactor s dv)).getD k 0 = gfMul (dv.getD k 0) (modFactor s dv) := by
        rw [List.getD_eq_getElem _ _ (by simpa using hk), List.getD_eq_getElem _ _ hk]
        simp only [scale, List.getElem_map]
      rw [hscale, modFactor, gfMul_gexp hc, gexp]
    · rw [List.getD_eq_default (scale _ _) _ (by rw [scale_length]; omega)]
      exact BitVec.xor_zero.symm

theorem polyModStep_eq {s dv : List Byte} (hlen : dv.length ≤ s.length) (hs : s.headD 0 ≠ 0)
    (hdv : ∀ c ∈ dv, c ≠ 0) : polyModStep s dv = .ok (normBody (modIteration s dv) 0) := by
  have hscale : ((logs dv).map fun (ld : Nat) =>
      gexp (ld + ((logRom (s.headD 0).toNat).toNat - ((logRom (dv.headD 0).toNat).toNat : Int)))) =
      scale dv (modFactor s dv) := by
    rw [logs, List.map_map, scale]
    exact List.map_congr_left fun c hc => (gfMul_gexp (hdv c hc) _).symm
  rw [polyModStep, glog_of_ne_zero hs, glogs_ok hdv, ← logs]
  simp only [logs_headD, hscale, modIteration_eq hlen hdv]

/-- The factor makes the leading coefficients equal, so an iteration cancels the dividend's. -/
theorem modIteration_headD {s dv : List Byte} (h1 : 1 ≤ dv.length) (hlen : dv.length ≤ s.length)
    (hs : s.headD 0 ≠ 0) (hdv : ∀ c ∈ dv, c ≠ 0) : (modIteration s dv).headD 0 = 0 := by
  cases dv with
  | nil => simp at h1
  | cons c dv =>
    obtain ⟨hlt, hexp⟩ := expRom_logRom_of_ne_zero hs
    have hmul : gfMul c (modFactor s (c :: dv)) = s.headD 0 := by
      rw [modFactor, gfMul_gexp (hdv c List.mem_cons_self), List.headD_cons, gexp_of_euclidean (q := 0) hlt (by omega),
        hexp]
    rw [modIteration_eq hlen hdv, headD_eq_getD, xorAlign_getD, ← headD_eq_getD]
    simp only [scale, List.map_cons, hmul, List.getD_cons_zero, BitVec.xor_self]
    rfl

/-! ## The loop -/

/-- What the rule asks of a dividend before an iteration (`41_poly.md` R144): no logarithm of 0 is taken. -/
def DivisionDefined (s dv : List Byte) : Prop := s.length < dv.length ∨ s = [0] ∨ s.headD 0 ≠ 0 ∧ ∀ c ∈ dv, c ≠ 0

/-- A sequence that starts with 0 is shorter in its normal form, or is the zero polynomial there. -/
theorem normBody_of_headD_zero {p : List Byte} (h0 : p.length ≠ 0) (h : p.headD 0 = 0) :
    normBody p 0 = [0] ∨ (normBody p 0).headD 0 ≠ 0 ∧ (normBody p 0).length < p.length := by
  rcases zeros_or_leading p with ⟨z, rfl⟩ | ⟨z, c, q, rfl, hc⟩
  · exact .inl (normBody_of_zeros z 0)
  · cases z with
    | zero => exact absurd h hc
    | succ z =>
      rw [normBody_of_leading _ q hc]
      refine .inr ⟨hc, ?_⟩
      simp only [List.length_append, List.length_cons, List.length_replicate]
      omega

/-- With fuel for every coefficient of the dividend the loop ends as the rule's does; `[0]` ends it at once. -/
theorem polyModLoop_eq {dv : List Byte} (h1 : 1 ≤ dv.length) (fuel : Nat) {s : List Byte} (h0 : s.length ≠ 0)
    (hfuel : s = [0] ∨ s.length ≤ fuel) (h : DivisionDefined s dv) :
    ∃ r, polyModLoop fuel s dv = .ok r ∧ ModRun dv s r ∧ (r.length < dv.length ∨ r = [0]) := by
  induction fuel generalizing s with
  | zero =>
    have hs : s = [0] := hfuel.resolve_right (by omega)
    exact ⟨s, rfl, .exit s (.inr hs), .inr hs⟩
  | succ fuel ih =>
    rw [polyModLoop]
    split
    · rename_i hexit
      exact ⟨s, rfl, .exit s hexit, hexit⟩
    · rename_i hgo
      obtain ⟨hlen, hne⟩ := not_or.1 hgo
      obtain ⟨hs, hdv⟩ := (h.resolve_left hlen).resolve_left hne
      have hle : dv.length ≤ s.length := by omega
      have hl := modIteration_length s dv
      have hstep := normBody_of_headD_zero (by omega) (modIteration_headD h1 hle hs hdv)
      obtain ⟨r, hr, hrun, hend⟩ := ih (s := normBody (modIteration s dv) 0) (by rw [normBody_length]; omega)
        (hstep.imp_right fun ⟨_, hshort⟩ => by have := hfuel.resolve_left hne; omega)
        (.inr (hstep.imp_right fun ⟨hhead, _⟩ => ⟨hhead, hdv⟩))
      rw [polyModStep_eq hle hs hdv]
      exact ⟨r, hr, .iterate s _ r hgo (isNorm_normBody (by omega)) hrun, hend⟩

/-- Settles O11: the loop's fuel is the dividend's length, and a remainder is no longer than the dividend. -/
theorem polyModResult : Obligations.PolyModResult := by
  intro s d a b hfit ha1 ha hb1 hb hcond
  have hoa := polyOperand_of_fits ha1 ha
  have hob := polyOperand_of_fits hb1 hb
  simp only [← State.poly_length] at ha1 ha hb1 hb hcond
  obtain ⟨r, hr, hrun, hend⟩ := polyModLoop_eq hb1 ((s.poly a).length + 1) (s := s.poly a) (by omega)
    (.inr (by omega)) hcond
  have hlen := polyModLoop_length_le _ (by omega) hr
  obtain ⟨t, ht, hw⟩ := complete_writePoly (d := d) ((rulePolyMod_eq s d a b).trans (twoOperandRule_ok hoa hob hr))
    (hlen.trans (ha.trans hfit.1))
  exact ⟨t, r, ht, hw, hrun, hend⟩

end Sys2Proof.Machine

/-! GF(256) as a quotient of the polynomials over GF(2): bytes embed into a commutative ring, where XOR is addition and
the products of the ROMs are products (`40_gf.md` R130, R134). -/

namespace Sys2Proof.Machine

/-! ## The ring -/

/-- The field's modulus, x^8 + x^4 + x^3 + x^2 + 1 over GF(2) (`40_gf.md` R130). -/
noncomputable def gfModulus : Polynomial (ZMod 2) :=
  Polynomial.X ^ 8 + Polynomial.X ^ 4 + Polynomial.X ^ 3 + Polynomial.X ^ 2 + 1

/-- The ring the bytes embed into. -/
abbrev GfRing : Type := AdjoinRoot gfModulus

/-- The root of the modulus, whose powers the EXP ROM lists. -/
noncomputable def gfRoot : GfRing := AdjoinRoot.root gfModulus

theorem gfRing_two : (2 : GfRing) = 0 := by
  have h : AdjoinRoot.of gfModulus (2 : ZMod 2) = 2 := map_ofNat _ 2
  rw [← h, show (2 : ZMod 2) = 0 by decide, map_zero]

theorem gfRing_add_self (x : GfRing) : x + x = 0 := by rw [← two_mul, gfRing_two, zero_mul]

theorem gfModulus_degree : gfModulus.degree = 8 := by
  rw [gfModulus]
  compute_degree!

theorem gfRing_one_ne_zero : (1 : GfRing) ≠ 0 := by
  have := AdjoinRoot.nontrivial gfModulus (by rw [gfModulus_degree]; decide)
  exact one_ne_zero

theorem eval₂_gfModulus {R : Type} [CommRing R] (f : ZMod 2 →+* R) (x : R) :
    gfModulus.eval₂ f x = x ^ 8 + x ^ 4 + x ^ 3 + x ^ 2 + 1 := by
  simp [gfModulus]

theorem gfRoot_pow_eight : gfRoot ^ 8 = gfRoot ^ 4 + gfRoot ^ 3 + gfRoot ^ 2 + 1 := by
  have h := (eval₂_gfModulus (AdjoinRoot.of gfModulus) gfRoot).symm.trans (AdjoinRoot.eval₂_root gfModulus)
  linear_combination h - (gfRoot ^ 4 + gfRoot ^ 3 + gfRoot ^ 2 + 1) * gfRing_two

/-! ## The embedding -/

/-- A byte as a combination of the root's powers: bit `i` is the coefficient of the power `i`. -/
noncomputable def embed (a : Byte) : GfRing := ∑ i ∈ Finset.range 8, if a.getLsbD i then gfRoot ^ i else 0

theorem embed_zero : embed 0 = 0 := by simp [embed]

theorem embed_xor (a b : Byte) : embed (a ^^^ b) = embed a + embed b := by
  rw [embed, embed, embed, ← Finset.sum_add_distrib]
  refine Finset.sum_congr rfl fun i _ => ?_
  rw [BitVec.getLsbD_xor]
  cases a.getLsbD i <;> cases b.getLsbD i <;> simp [gfRing_add_self]

/-- The first eight entries of the EXP ROM are the powers of two (`40_gf.md` R130), each a single bit. -/
theorem embed_expRom_of_lt_eight {i : Nat} (hi : i < 8) : embed (expRom i) = gfRoot ^ i := by
  have hbit : ∀ i < 8, ∀ j < 8, (expRom i).getLsbD j = decide (j = i) := by decide
  have hterm : ∀ j ∈ Finset.range 8,
      (if (expRom i).getLsbD j then gfRoot ^ j else 0) = if j = i then gfRoot ^ j else 0 := fun j hj => by
    simp only [hbit i hi j (Finset.mem_range.1 hj), decide_eq_true_eq]
  rw [embed, Finset.sum_congr rfl hterm, Finset.sum_ite_eq', if_pos (Finset.mem_range.2 hi)]

/-- The EXP ROM's recurrence is that of the root's powers. -/
theorem embed_expRom {i : Nat} (hi : i < 256) : embed (expRom i) = gfRoot ^ i := by
  induction i using Nat.strong_induction_on with
  | _ i ih =>
    by_cases h8 : i < 8
    · exact embed_expRom_of_lt_eight h8
    · obtain ⟨j, rfl⟩ := Nat.exists_eq_add_of_le' (Nat.le_of_not_lt h8)
      rw [expRom_recurrence _ hi (by omega), embed_xor, embed_xor, embed_xor, ih _ (by omega) (by omega),
        ih _ (by omega) (by omega), ih _ (by omega) (by omega), ih _ (by omega) (by omega),
        show j + 8 - 4 = j + 4 by omega, show j + 8 - 5 = j + 3 by omega, show j + 8 - 6 = j + 2 by omega,
        show j + 8 - 8 = j by omega]
      linear_combination -gfRoot ^ j * gfRoot_pow_eight

theorem embed_one : embed 1 = 1 := (embed_expRom (i := 0) (by omega)).trans (pow_zero _)

theorem gfRoot_pow_255 : gfRoot ^ 255 = 1 := by
  rw [← embed_expRom (by omega), show expRom 255 = 1 from rfl, embed_one]

theorem gfRoot_pow_mod (n : Nat) : gfRoot ^ (n % 255) = gfRoot ^ n := by
  conv_rhs => rw [← Nat.div_add_mod n 255, pow_add, pow_mul, gfRoot_pow_255, one_pow, one_mul]

theorem embed_eq_pow_logRom {a : Byte} (ha : a ≠ 0) : embed a = gfRoot ^ (logRom a.toNat).toNat := by
  obtain ⟨hlt, hexp⟩ := expRom_logRom_of_ne_zero ha
  rw [← embed_expRom (by omega), hexp]

/-- A cross term of nonzero elements, by their logarithms, is their product. -/
theorem embed_gfTerm {a b : Byte} (ha : a ≠ 0) (hb : b ≠ 0) : embed (gfTerm a b) = embed a * embed b := by
  rw [gfTerm, embed_expRom (by omega), gfRoot_pow_mod, pow_add, embed_eq_pow_logRom ha, embed_eq_pow_logRom hb]

theorem embed_gfMul (a b : Byte) : embed (gfMul a b) = embed a * embed b := by
  by_cases h : a = 0 ∨ b = 0
  · rw [gfMul, if_pos h]
    rcases h with rfl | rfl
    · rw [embed_zero, zero_mul]
    · rw [embed_zero, mul_zero]
  · rw [gfMul, if_neg h]
    obtain ⟨ha, hb⟩ := not_or.1 h
    exact embed_gfTerm ha hb

theorem isUnit_gfRoot : IsUnit gfRoot := IsUnit.of_pow_eq_one gfRoot_pow_255 (by omega)

theorem isUnit_embed {a : Byte} (ha : a ≠ 0) : IsUnit (embed a) := by
  rw [embed_eq_pow_logRom ha]
  exact isUnit_gfRoot.pow _

theorem ne_zero_of_isUnit_embed {a : Byte} (h : IsUnit (embed a)) : a ≠ 0 := by
  rintro rfl
  rw [embed_zero, isUnit_zero_iff] at h
  exact gfRing_one_ne_zero h.symm

/-- Only the byte 0 embeds as 0, for the others are units. -/
theorem eq_zero_of_embed {a : Byte} (h : embed a = 0) : a = 0 := by
  by_contra ha
  have hu := isUnit_embed ha
  rw [h, ← embed_zero] at hu
  exact ne_zero_of_isUnit_embed hu rfl

/-- The root's order is 255. -/
theorem isUnit_gfRoot_pow_add_one {j : Nat} (h0 : 0 < j) (hj : j < 255) : IsUnit (gfRoot ^ j + 1) := by
  have hne : expRom j ^^^ 1 ≠ 0 := fun h => by
    have hlog := logRom_expRom j hj
    rw [show expRom j = 1 from BitVec.xor_eq_zero_iff.1 h, show (1 : Byte) = expRom 0 from rfl,
      logRom_expRom 0 (by omega)] at hlog
    omega
  rw [← embed_expRom (by omega), ← embed_one, ← embed_xor]
  exact isUnit_embed hne

end Sys2Proof.Machine

/-! The generator polynomials (`41_poly.md` R145): products of linear factors, none with a zero coefficient below degree
255. Coefficient `k` of the generator of degree `n` is, up to a power of the root, a Gaussian binomial coefficient; the
proof is the recurrence between neighbours that such coefficients meet. -/

namespace Sys2Proof.Machine

/-! ## Products with a linear factor -/

theorem embed_crossTermAt {x : Byte} {b : List Byte} (hx : x ≠ 0) (hb : ∀ c ∈ b, c ≠ 0) (k : Nat) :
    embed (crossTermAt x b k) = embed x * embed (b.getD k 0) := by
  by_cases hk : k < b.length
  · rw [crossTermAt, if_pos hk, List.getD_eq_getElem _ _ hk, embed_gfTerm hx (hb _ (List.getElem_mem hk))]
  · rw [crossTermAt, if_neg hk, List.getD_eq_default _ _ (by omega), embed_zero, mul_zero]

/-- A product's leading coefficient is the product of the factors' leading coefficients. -/
theorem embed_productCoeff_zero {a b : List Byte} (ha : ∀ c ∈ a, c ≠ 0) (hb : ∀ c ∈ b, c ≠ 0) :
    embed (productCoeff a b 0) = embed (a.getD 0 0) * embed (b.getD 0 0) := by
  cases a with
  | nil => exact embed_zero.trans (by rw [List.getD_nil, embed_zero, zero_mul])
  | cons x a => rw [productCoeff_cons_zero, embed_crossTermAt (ha x List.mem_cons_self) hb, List.getD_cons_zero]

/-- Multiplying by `[1, r]` adds to each coefficient `r` times the one before it. -/
theorem embed_productCoeff_linear {p : List Byte} {r : Byte} (hp : ∀ c ∈ p, c ≠ 0) (hr : r ≠ 0) (k : Nat) :
    embed (productCoeff p [1, r] (k + 1)) = embed (p.getD (k + 1) 0) + embed (p.getD k 0) * embed r := by
  have hfac : ∀ c ∈ [1, r], c ≠ 0 := by simpa using hr
  induction p generalizing k with
  | nil =>
    simp only [List.getD_nil, embed_zero, zero_mul, add_zero]
    exact embed_zero
  | cons x p ih =>
    have hrest : ∀ c ∈ p, c ≠ 0 := fun c hc => hp c (List.mem_cons_of_mem _ hc)
    rw [productCoeff_cons_succ, embed_xor, embed_crossTermAt (hp x List.mem_cons_self) hfac, List.getD_cons_succ,
      List.getD_cons_succ]
    cases k with
    | zero =>
      rw [embed_productCoeff_zero hrest hfac]
      simp only [List.getD_cons_zero, embed_one]
      ring
    | succ k =>
      rw [ih hrest k, List.getD_cons_succ, List.getD_cons_succ, List.getD_nil, embed_zero, mul_zero, zero_add]

/-! ## The family of generators -/

/-- The generator of degree `n`, factor by factor (`41_poly.md` R145). -/
def generatorPoly : Nat → List Byte
  | 0 => [1]
  | n + 1 => productOf (generatorPoly n) [1, expRom n]

@[simp] theorem generatorPoly_length (n : Nat) : (generatorPoly n).length = n + 1 := by
  induction n with
  | zero => rfl
  | succ n ih => simp [generatorPoly, productOf_length, ih]

/-- Coefficient `k` of the generator of degree `n`, in the ring. -/
noncomputable def generatorCoeff (n k : Nat) : GfRing := embed ((generatorPoly n).getD k 0)

theorem generatorCoeff_of_lt {n k : Nat} (h : n < k) : generatorCoeff n k = 0 := by
  rw [generatorCoeff, List.getD_eq_default _ _ (by rw [generatorPoly_length]; omega), embed_zero]

theorem generatorCoeff_succ_zero {n : Nat} (hn : n < 255) (hne : ∀ c ∈ generatorPoly n, c ≠ 0) :
    generatorCoeff (n + 1) 0 = generatorCoeff n 0 := by
  rw [generatorCoeff, generatorPoly, productOf_getD (by simp) (by simp),
    embed_productCoeff_zero hne (by simpa using expRom_ne_zero n (by omega)), List.getD_cons_zero, embed_one, mul_one,
    generatorCoeff]

theorem generatorCoeff_succ_succ {n : Nat} (hn : n < 255) (hne : ∀ c ∈ generatorPoly n, c ≠ 0) (k : Nat) :
    generatorCoeff (n + 1) (k + 1) = generatorCoeff n (k + 1) + generatorCoeff n k * gfRoot ^ n := by
  rw [generatorCoeff, generatorPoly, productOf_getD (by simp) (by simp),
    embed_productCoeff_linear hne (expRom_ne_zero n (by omega)), embed_expRom (by omega), generatorCoeff,
    generatorCoeff]

/-! ## No generator below degree 255 has a zero coefficient -/

/-- The recurrence between neighbouring coefficients of the product of `1 + q^i X`, `i` below `n`, over a ring of
characteristic 2. -/
def GaussRecurrence {R : Type} [CommRing R] (q : R) (n : Nat) (c : Nat → R) : Prop :=
  ∀ k, c (k + 1) * (q ^ (k + 1) + 1) = (q ^ n + q ^ k) * c k

/-- One more factor keeps the recurrence. -/
theorem GaussRecurrence.succ {R : Type} [CommRing R] {q : R} {n : Nat} {c c' : Nat → R} (h : GaussRecurrence q n c)
    (h2 : (2 : R) = 0) (hzero : c' 0 = c 0) (hsucc : ∀ k, c' (k + 1) = c (k + 1) + c k * q ^ n) :
    GaussRecurrence q (n + 1) c' := by
  intro k
  cases k with
  | zero =>
    rw [hsucc, hzero]
    linear_combination h 0 + c 0 * q ^ n * h2
  | succ k =>
    rw [hsucc, hsucc]
    linear_combination h (k + 1) + q ^ (n + 1) * h k + c (k + 1) * (q ^ n - q ^ (n + 1)) * h2

/-- By the recurrence every coefficient is a unit: the root's powers below 255 differ from one another. -/
theorem isUnit_generatorCoeff {n k : Nat} (hn : n < 255) (hlead : generatorCoeff n 0 = 1)
    (h : GaussRecurrence gfRoot n (generatorCoeff n)) (hk : k ≤ n) : IsUnit (generatorCoeff n k) := by
  induction k with
  | zero => rw [hlead]; exact isUnit_one
  | succ k ih =>
    have hfactor : gfRoot ^ n + gfRoot ^ k = gfRoot ^ k * (gfRoot ^ (n - k) + 1) := by
      rw [mul_add, ← pow_add, Nat.add_sub_cancel' (by omega), mul_one]
    have hright : IsUnit ((gfRoot ^ n + gfRoot ^ k) * generatorCoeff n k) := by
      rw [hfactor]
      exact ((isUnit_gfRoot.pow k).mul (isUnit_gfRoot_pow_add_one (by omega) (by omega))).mul (ih (by omega))
    rw [← h k] at hright
    exact isUnit_of_mul_isUnit_left hright

theorem generatorPoly_ne_zero_of_recurrence {n : Nat} (hn : n < 255) (hlead : generatorCoeff n 0 = 1)
    (h : GaussRecurrence gfRoot n (generatorCoeff n)) : ∀ c ∈ generatorPoly n, c ≠ 0 := by
  intro c hc
  obtain ⟨k, hk, rfl⟩ := List.getElem_of_mem hc
  have hu := isUnit_generatorCoeff hn hlead h (k := k) (by rw [generatorPoly_length] at hk; omega)
  rw [generatorCoeff, List.getD_eq_getElem _ _ hk] at hu
  exact ne_zero_of_isUnit_embed hu

theorem generatorCoeff_recurrence {n : Nat} (hn : n < 255) :
    generatorCoeff n 0 = 1 ∧ GaussRecurrence gfRoot n (generatorCoeff n) := by
  induction n with
  | zero =>
    have hlead : generatorCoeff 0 0 = 1 := embed_one
    refine ⟨hlead, fun k => ?_⟩
    rw [generatorCoeff_of_lt (by omega)]
    cases k with
    | zero => rw [hlead, pow_zero, gfRing_add_self, zero_mul, zero_mul]
    | succ k => rw [generatorCoeff_of_lt (by omega), zero_mul, mul_zero]
  | succ n ih =>
    obtain ⟨hlead, h⟩ := ih (by omega)
    have hne := generatorPoly_ne_zero_of_recurrence (by omega) hlead h
    exact ⟨(generatorCoeff_succ_zero (by omega) hne).trans hlead,
      h.succ gfRing_two (generatorCoeff_succ_zero (by omega) hne) (generatorCoeff_succ_succ (by omega) hne)⟩

theorem generatorPoly_ne_zero {n : Nat} (hn : n < 255) : ∀ c ∈ generatorPoly n, c ≠ 0 := by
  obtain ⟨hlead, h⟩ := generatorCoeff_recurrence hn
  exact generatorPoly_ne_zero_of_recurrence hn hlead h

/-! ## POLY_GEN -/

theorem generator_eq {n : Nat} (hn : n ≤ 255) : generator n = .ok (generatorPoly n) := by
  induction n with
  | zero => rfl
  | succ n ih =>
    have hroot : gexp (n : Nat) = expRom n := by rw [gexp_natCast, Nat.mod_eq_of_lt (by omega)]
    rw [generator, ih (by omega), generatorPoly]
    simp only [hroot]
    exact polyProduct_eq (by simp) (by simp) (generatorPoly_ne_zero (by omega))
      (by simpa using expRom_ne_zero n (by omega))

theorem rulePolyGen_of_fits {s : State} {n : Nat} (hn : n ≤ 255) (hmax : n + 1 ≤ s.params.polyMax) (d : PReg) :
    rulePolyGen d n s = .ok (writePoly s d (generatorPoly n)) := by
  rw [rulePolyGen, if_neg (by omega), generator_eq hn]

theorem rulePolyGen_of_long {s : State} {n : Nat} (hmax : s.params.polyMax < n + 1) (d : PReg) :
    rulePolyGen d n s = .error .hwPolyLen := if_pos hmax

/-- Settles O12: the family is the generators', whose products meet no zero coefficient. -/
theorem polyGenResult : Obligations.PolyGenResult := by
  refine ⟨generatorPoly, rfl, fun n hn => ⟨generatorPoly_ne_zero hn, ?_⟩, fun s d n hfit hmax => ?_,
    fun s d n hmax => complete_error (rulePolyGen_of_long hmax d)⟩
  · rw [generatorPoly, productOf, generatorPoly_length]
    rfl
  · have h256 := hfit.1
    exact complete_writePoly (rulePolyGen_of_fits (by omega) hmax d) (by rw [generatorPoly_length]; omega)

end Sys2Proof.Machine

/-! Evaluation: a product's value is the product of the values, a remainder has the dividend's value at the divisor's
roots, and a block with its error codewords vanishes at the generator's (`44_codeword.md` R206). -/

namespace Sys2Proof.Machine

/-! ## Values -/

/-- The value of a polynomial, leading coefficient first, at a point of the ring. -/
noncomputable def valueAt (x : GfRing) : List Byte → GfRing
  | [] => 0
  | c :: p => embed c * x ^ p.length + valueAt x p

theorem embed_foldl_horner (x acc : Byte) (p : List Byte) :
    embed (p.foldl (fun acc c => gfMul acc x ^^^ c) acc) = embed acc * embed x ^ p.length + valueAt (embed x) p := by
  induction p generalizing acc with
  | nil => simp [valueAt]
  | cons c p ih =>
    rw [List.foldl_cons, ih, embed_xor, embed_gfMul, List.length_cons, valueAt]
    ring

/-- Horner's rule on bytes gives the value in the ring. -/
theorem embed_polyEval (x : Byte) (p : List Byte) : embed (polyEval x p) = valueAt (embed x) p := by
  rw [polyEval, embed_foldl_horner, embed_zero, zero_mul, zero_add]

section
variable (x : GfRing)

theorem valueAt_append (p q : List Byte) : valueAt x (p ++ q) = valueAt x p * x ^ q.length + valueAt x q := by
  induction p with
  | nil => simp [valueAt]
  | cons c p ih =>
    rw [List.cons_append, valueAt, ih, valueAt, List.length_append]
    ring

theorem valueAt_zeros (z : Nat) : valueAt x (List.replicate z 0) = 0 := by
  induction z with
  | zero => rfl
  | succ z ih => rw [List.replicate_succ, valueAt, ih, embed_zero, zero_mul, zero_add]

theorem valueAt_one : valueAt x [1] = 1 := by
  rw [valueAt, valueAt, embed_one, List.length_nil, pow_zero, one_mul, add_zero]

theorem valueAt_linear (r : Byte) : valueAt x [1, r] = x + embed r := by
  simp only [valueAt, embed_one, List.length_cons, List.length_nil]
  ring

/-- Leading zeros do not count. -/
theorem valueAt_zeros_append (z : Nat) (p : List Byte) : valueAt x (List.replicate z 0 ++ p) = valueAt x p := by
  rw [valueAt_append, valueAt_zeros, zero_mul, zero_add]

theorem valueAt_scale (p : List Byte) (r : Byte) : valueAt x (scale p r) = valueAt x p * embed r := by
  induction p with
  | nil => exact (zero_mul _).symm
  | cons c p ih =>
    rw [scale, List.map_cons, ← scale, valueAt, ih, valueAt, embed_gfMul, scale_length]
    ring

/-- Sequences are added from their leading coefficients on: the shorter one counts as if zeros followed it. -/
theorem valueAt_xorAlign (p q : List Byte) :
    valueAt x (xorAlign p q) =
      valueAt x p * x ^ (q.length - p.length) + valueAt x q * x ^ (p.length - q.length) := by
  induction p, q using xorAlign.induct with
  | case1 q => simp [xorAlign, valueAt]
  | case2 p hp => simp [xorAlign, valueAt]
  | case3 c p d q ih =>
    have hp : x ^ max p.length q.length = x ^ p.length * x ^ (q.length - p.length) := by
      rw [← pow_add]; congr 1; omega
    have hq : x ^ max p.length q.length = x ^ q.length * x ^ (p.length - q.length) := by
      rw [← pow_add]; congr 1; omega
    simp only [xorAlign, valueAt, ih, embed_xor, xorAlign_length, List.length_cons, Nat.add_sub_add_right]
    linear_combination embed c * hp + embed d * hq

/-! ## Products -/

/-- The cross terms of a leading coefficient are the other factor, scaled. -/
theorem crossTerms_cons {c : Byte} {b : List Byte} (a : List Byte) (hc : c ≠ 0) (hb : ∀ d ∈ b, d ≠ 0) :
    crossTerms (logs (c :: a)) (logs b) = xorAlign (scale b c) (0 :: crossTerms (logs a) (logs b)) := by
  obtain ⟨hlt, hexp⟩ := expRom_logRom_of_ne_zero hc
  have hgexp : gexp (logRom c.toNat).toNat = c := by rw [gexp_natCast, Nat.mod_eq_of_lt hlt, hexp]
  have hscale : ((logs b).map fun (lb : Nat) => gexp ((logRom c.toNat).toNat + lb)) = scale b c := by
    rw [logs, List.map_map, scale]
    refine List.map_congr_left fun d hd => ?_
    rw [← hgexp, gfMul_gexp (hb d hd), hgexp, Function.comp_apply, add_comm]
  rw [logs, List.map_cons, crossTerms, ← logs, hscale]

/-- POLY_MUL's product is the product of polynomials. -/
theorem valueAt_productOf {a b : List Byte} (ha : a.length ≠ 0) (hb : b.length ≠ 0) (ha0 : ∀ c ∈ a, c ≠ 0)
    (hb0 : ∀ c ∈ b, c ≠ 0) : valueAt x (productOf a b) = valueAt x a * valueAt x b := by
  rw [← crossTerms_eq_productOf ha hb]
  induction a with
  | nil => exact absurd rfl ha
  | cons c a ih =>
    rw [crossTerms_cons a (ha0 c List.mem_cons_self) hb0, valueAt_xorAlign, valueAt_scale, scale_length, valueAt,
      embed_zero, zero_mul, zero_add, valueAt, List.length_cons]
    cases a with
    | nil =>
      have hnil : crossTerms (logs []) (logs b) = [] := rfl
      rw [hnil, List.length_nil, show 0 + 1 - b.length = 0 by omega, valueAt]
      ring
    | cons d a =>
      have hlen := crossTerms_length (a := d :: a) (by simp) hb
      rw [ih (by simp) fun e he => ha0 e (List.mem_cons_of_mem _ he), hlen, List.length_cons,
        show a.length + 1 + b.length - 1 + 1 - b.length = a.length + 1 by omega,
        show b.length - (a.length + 1 + b.length - 1 + 1) = 0 by omega]
      ring

/-- The generator of degree `n` is the product of its linear factors. -/
theorem valueAt_generatorPoly {n : Nat} (hn : n ≤ 255) :
    valueAt x (generatorPoly n) = ∏ j ∈ Finset.range n, (x + gfRoot ^ j) := by
  induction n with
  | zero => rw [generatorPoly, valueAt_one, Finset.prod_range_zero]
  | succ n ih =>
    have hfac : ∀ c ∈ [1, expRom n], c ≠ 0 := by simpa using expRom_ne_zero n (by omega)
    rw [generatorPoly, valueAt_productOf x (by simp) (by simp) (generatorPoly_ne_zero (by omega)) hfac, ih (by omega),
      Finset.prod_range_succ, valueAt_linear, embed_expRom (by omega)]

/-! ## Remainders -/

theorem valueAt_of_isNorm {t r : List Byte} (h : IsNorm t r) : valueAt x t = valueAt x r := by
  rcases h with ⟨z, rfl, -⟩ | ⟨z, rfl, rfl⟩
  · exact valueAt_zeros_append x z r
  · exact (valueAt_zeros x (z + 1)).trans (valueAt_zeros x 1).symm

variable {x} {dv : List Byte} (hdv : ∀ c ∈ dv, c ≠ 0) (hroot : valueAt x dv = 0)
include hdv hroot

/-- At a root of the divisor an iteration leaves the dividend's value. -/
theorem valueAt_modIteration {s : List Byte} (hlen : dv.length ≤ s.length) :
    valueAt x (modIteration s dv) = valueAt x s := by
  rw [modIteration_eq hlen hdv, valueAt_xorAlign, valueAt_scale, hroot, scale_length,
    Nat.sub_eq_zero_of_le hlen, pow_zero, mul_one, zero_mul, zero_mul, add_zero]

/-- At a root of the divisor the remainder has the dividend's value. -/
theorem valueAt_of_modRun {s r : List Byte} (h : ModRun dv s r) : valueAt x s = valueAt x r := by
  induction h with
  | exit s _ => rfl
  | iterate s t r hgo hn _ ih =>
    rw [← ih, ← valueAt_of_isNorm x hn, valueAt_modIteration hdv hroot (Nat.le_of_not_lt (not_or.1 hgo).1)]

end

/-! ## Blocks -/

theorem valueAt_generatorPoly_root {e i : Nat} (he : e ≤ 255) (hi : i < e) :
    valueAt (embed (expRom i)) (generatorPoly e) = 0 := by
  rw [valueAt_generatorPoly _ he, embed_expRom (by omega)]
  exact Finset.prod_eq_zero (Finset.mem_range.2 hi) (gfRing_add_self _)

/-- Settles O27: at a root of the generator the dividend, which is the data and `e` zeros, has the remainder's value,
and adding it to itself gives 0. -/
theorem blocksVanishAtRoots : Obligations.BlocksVanishAtRoots := by
  intro data c e i he _ hc hi
  obtain ⟨g, dividend, rem, hg, hrun, ⟨z, hdata, hdividend⟩, hlen, rfl⟩ := hc
  rw [generator_eq (by omega), Except.ok.injEq] at hg
  subst hg
  have hvalue := valueAt_of_modRun (generatorPoly_ne_zero (by omega)) (valueAt_generatorPoly_root (by omega) hi) hrun
  rw [hdividend, valueAt_append, valueAt_zeros, add_zero, List.length_replicate] at hvalue
  refine eq_zero_of_embed ?_
  rw [embed_polyEval, hdata, valueAt_append, valueAt_zeros_append, valueAt_zeros_append, List.length_append,
    List.length_replicate, Nat.sub_add_cancel hlen, hvalue, gfRing_add_self]

end Sys2Proof.Machine

/-! The bit buffer read back: the bits that stand from a position on, what an append leaves there, and the numbers they
make (`43_bitbuffer.md` R182). -/

namespace Sys2Proof.Machine

/-- The bits `bits` stand in the bit buffer from `pos` on. -/
def State.BitsAt (s : State) (pos : Nat) (bits : List Bool) : Prop :=
  ∀ j, j < bits.length → s.bbBit (pos + j) = bits.getD j false

theorem State.bitsAt_append {s : State} {pos : Nat} {xs ys : List Bool} (h : s.BitsAt pos (xs ++ ys)) :
    s.BitsAt pos xs ∧ s.BitsAt (pos + xs.length) ys := by
  rw [State.BitsAt, List.length_append] at h
  refine ⟨fun j hj => ?_, fun j hj => ?_⟩
  · rw [h j (by omega), List.getD_append _ _ _ _ hj]
  · rw [Nat.add_assoc, h (xs.length + j) (by omega), List.getD_append_right _ _ _ _ (by omega), Nat.add_sub_cancel_left]

/-- After an append the bits stand where BITLEN was. -/
theorem State.bitsAt_putBits {s : State} {bits : List Bool} (h : s.bitLen.toNat + bits.length ≤ 32768) :
    (s.putBits bits).succeed.BitsAt s.bitLen.toNat bits := by
  intro j hj
  exact (State.bbBit_putBits s bits _ h).trans (by rw [if_pos (by omega), Nat.add_sub_cancel_left])

/-- Completing after an append is what `AppendedBits` says, for as many bits as were appended. -/
theorem State.appendedBits_putBits {s : State} {bits : List Bool} (h : s.bitLen.toNat + bits.length ≤ 32768) :
    s.AppendedBits (s.putBits bits).succeed bits.length := by
  have hlen : (s.putBits bits).bitLen = BitVec.ofNat 16 (s.bitLen.toNat + bits.length) := by
    rw [← State.putBits_bitLen s bits h, BitVec.ofNat_toNat, BitVec.setWidth_eq]
  refine ⟨?_, fun k hk => ?_, fun a ha => State.byteAt_putBits_outside s bits h ha⟩
  · rw [← hlen, State.putBits_frame]
    rfl
  · exact (State.bbBit_putBits s bits k h).trans (if_neg (by omega))

/-! ## Numbers -/

theorem bitsOf_succ (v w : Nat) : bitsOf v (w + 1) = bitsOf (v / 2) w ++ [v.testBit 0] := by
  simp [bitsOf, List.range_succ_eq_map, Function.comp_def, Nat.testBit_succ]

theorem State.bbNumber_succ (s : State) (pos w : Nat) :
    s.bbNumber pos (w + 1) = 2 * s.bbNumber pos w + (s.bbBit (pos + w)).toNat := by
  simp [State.bbNumber, List.range_succ]

/-- The bits of a value, read as a number, are its low bits. -/
theorem State.bbNumber_of_bitsAt {s : State} {pos v w : Nat} (h : s.BitsAt pos (bitsOf v w)) :
    s.bbNumber pos w = v % 2 ^ w := by
  induction w generalizing v with
  | zero => simp [State.bbNumber, Nat.mod_one]
  | succ w ih =>
    rw [bitsOf_succ] at h
    obtain ⟨hhigh, hlow⟩ := State.bitsAt_append h
    have hbit : s.bbBit (pos + w) = v.testBit 0 := by simpa using hlow 0 (by simp)
    rw [State.bbNumber_succ, ih hhigh, hbit, Nat.toNat_testBit, Nat.pow_succ', Nat.mod_mul]
    omega

theorem State.bbNumber_eq_of_lt {s : State} {pos v w : Nat} (h : s.BitsAt pos (bitsOf v w)) (hv : v < 2 ^ w) :
    s.bbNumber pos w = v := by
  rw [State.bbNumber_of_bitsAt h, Nat.mod_eq_of_lt hv]

end Sys2Proof.Machine

/-! Segment descriptors (`42_segment.md` R160-R164): what the fields of a descriptor load, and where they fail. -/

namespace Sys2Proof.Machine

/-! ## Alphabets -/

theorem all_isDigit_iff (p : List Byte) : p.all isDigit = true ↔ AllDigits p := by
  simp [isDigit]

/-- Where a byte stands in the alphabet's order is its index. -/
theorem aindex?_eq : ∀ b : Byte,
    aindex? b = if b.toNat ∈ alphabet45 then some (alphabet45.idxOf b.toNat) else none := by
  decide

theorem aindex_eq {b : Byte} (h : b.toNat ∈ alphabet45) : aindex b = alphabet45.idxOf b.toNat := by
  rw [aindex, aindex?_eq, if_pos h, Option.getD_some]

theorem aindex_lt {b : Byte} (h : b.toNat ∈ alphabet45) : aindex b < 45 := by
  rw [aindex_eq h]
  exact List.idxOf_lt_length_of_mem h

theorem all_isAlphanumeric_iff (p : List Byte) : p.all isAlphanumeric = true ↔ AllAlphanumeric p := by
  simp [isAlphanumeric, aindex?_eq, AllAlphanumeric]

/-! ## Mode resolution -/

theorem descriptorMode_of_unknown {code : Nat} (h : code ∉ [0, 1, 2, 4]) :
    descriptorMode code = .error .rangeMode := by
  unfold descriptorMode
  split <;> simp_all

theorem descriptorMode_of_known {code : Nat} (h : code ∈ [0, 1, 2, 4]) : ∃ req, descriptorMode code = .ok req := by
  simp only [List.mem_cons, List.not_mem_nil, or_false] at h
  rcases h with rfl | rfl | rfl | rfl <;> exact ⟨_, rfl⟩

/-- What a descriptor resolves to is the code of the mode the engine resolves it to. -/
theorem resolve_of_resolvesTo {mode m : Nat} {p : List Byte} (h : ResolvesTo mode p m) :
    ∃ req md, descriptorMode mode = .ok req ∧ resolve req p = .ok md ∧ md.code = m := by
  simp only [ResolvesTo, ← all_isDigit_iff, ← all_isAlphanumeric_iff] at h
  rcases h with ⟨rfl, hd, rfl⟩ | ⟨rfl, hd, ha, rfl⟩ | ⟨rfl, hd, ha, rfl⟩ | ⟨rfl, hd, rfl⟩ | ⟨rfl, ha, rfl⟩ | ⟨rfl, rfl⟩
  · exact ⟨none, .numeric, rfl, by rw [resolve, classify, if_pos hd], rfl⟩
  · exact ⟨none, .alphanumeric, rfl, by rw [resolve, classify, if_neg hd, if_pos ha], rfl⟩
  · exact ⟨none, .byte, rfl, by rw [resolve, classify, if_neg hd, if_neg ha], rfl⟩
  · exact ⟨some .numeric, .numeric, rfl, if_pos hd, rfl⟩
  · exact ⟨some .alphanumeric, .alphanumeric, rfl, if_pos ha, rfl⟩
  · exact ⟨some .byte, .byte, rfl, rfl, rfl⟩

/-- A payload that resolves is of the mode's alphabet. -/
theorem alphabet_of_resolvesTo {mode m : Nat} {p : List Byte} (h : ResolvesTo mode p m) :
    (m = 1 → AllDigits p) ∧ (m = 2 → AllAlphanumeric p) := by
  rcases h with ⟨-, hd, rfl⟩ | ⟨-, -, ha, rfl⟩ | ⟨-, -, -, rfl⟩ | ⟨-, hd, rfl⟩ | ⟨-, ha, rfl⟩ | ⟨-, rfl⟩
  · exact ⟨fun _ => hd, by simp⟩
  · exact ⟨by simp, fun _ => ha⟩
  · exact ⟨by simp, by simp⟩
  · exact ⟨fun _ => hd, by simp⟩
  · exact ⟨by simp, fun _ => ha⟩
  · exact ⟨by simp, by simp⟩

theorem resolve_of_alphabet {mode : Nat} {p : List Byte}
    (h : mode = 1 ∧ ¬AllDigits p ∨ mode = 2 ∧ ¬AllAlphanumeric p) :
    ∃ req, descriptorMode mode = .ok req ∧ resolve req p = .error .valAlphabet := by
  rw [← all_isDigit_iff, ← all_isAlphanumeric_iff] at h
  rcases h with ⟨rfl, hd⟩ | ⟨rfl, ha⟩
  · exact ⟨some .numeric, rfl, if_neg hd⟩
  · exact ⟨some .alphanumeric, rfl, if_neg ha⟩

/-! ## Loading a segment -/

section
variable {s : State} {i : Nat}

@[simp] theorem State.segPayload_length : (s.segPayload i).length = s.segCount i := by simp [State.segPayload]

theorem descriptor_eq : descriptor s i = { offset := s.segOffset i, count := s.segCount i, mode := s.segMode i } := rfl

theorem fetchSegment_eq_ok {req : Option Mode} (hm : descriptorMode (s.segMode i) = .ok req)
    (hb : s.segOffset i + s.segCount i ≤ s.params.dataMax) : fetchSegment s i = .ok (req, s.segPayload i) := by
  simp only [fetchSegment, descriptor_eq, hm, if_neg (Nat.not_lt.2 hb), State.bytesAt_eq]
  rfl

theorem fetchSegment_eq_error {req : Option Mode} (hm : descriptorMode (s.segMode i) = .ok req)
    (hb : s.params.dataMax < s.segOffset i + s.segCount i) : fetchSegment s i = .error .hwDataBounds := by
  simp only [fetchSegment, descriptor_eq, hm]
  exact if_pos hb

theorem loadSegment_of_segmentIs {m : Nat} (h : s.SegmentIs i m) :
    ∃ md : Mode, md.code = m ∧ loadSegment s i = .ok { mode := md, payload := s.segPayload i } := by
  obtain ⟨hb, hr⟩ := h
  obtain ⟨req, md, hm, hres, hcode⟩ := resolve_of_resolvesTo hr
  exact ⟨md, hcode, by simp only [loadSegment, fetchSegment_eq_ok hm hb, hres]⟩

theorem loadSegment_of_mode (h : s.segMode i ∉ [0, 1, 2, 4]) : loadSegment s i = .error .rangeMode := by
  simp only [loadSegment, fetchSegment, descriptor_eq, descriptorMode_of_unknown h]

theorem loadSegment_of_bounds (hm : s.segMode i ∈ [0, 1, 2, 4])
    (hb : s.params.dataMax < s.segOffset i + s.segCount i) : loadSegment s i = .error .hwDataBounds := by
  obtain ⟨req, hreq⟩ := descriptorMode_of_known hm
  rw [loadSegment, fetchSegment_eq_error hreq hb]

theorem loadSegment_of_alphabet (hb : s.segOffset i + s.segCount i ≤ s.params.dataMax)
    (h : s.segMode i = 1 ∧ ¬AllDigits (s.segPayload i) ∨ s.segMode i = 2 ∧ ¬AllAlphanumeric (s.segPayload i)) :
    loadSegment s i = .error .valAlphabet := by
  obtain ⟨req, hreq, hres⟩ := resolve_of_alphabet h
  simp only [loadSegment, fetchSegment_eq_ok hreq hb, hres]

end

end Sys2Proof.Machine

/-! The segment commands (`42_segment.md` R161, R165-R173): their outcomes on a segment that loads, and the payload
groups SEG_WRITE appends. -/

namespace Sys2Proof.Machine

/-! ## Widths and costs -/

theorem checkVersion_of_range {v : Nat} (h : v = 0 ∨ 40 < v) : checkVersion v = .error .rangeVersion :=
  if_neg fun hv => by simp only [Config.maxVersion] at hv; omega

theorem ByMode.at_code (b : ByMode) (md : Mode) : b.at md.code = b.get md := by cases md <;> rfl

theorem lenBits_eq_ok {v : Nat} (h1 : 1 ≤ v) (h2 : v ≤ 40) (p : Params) (md : Mode) :
    lenBits p md v = .ok (lengthWidth p md.code v) := by
  simp only [lenBits, checkVersion_eq_ok.2 ⟨h1, h2⟩, lengthWidth, ByMode.at_code]
  rfl

theorem lenBits_eq_error {v : Nat} (h : v = 0 ∨ 40 < v) (p : Params) (md : Mode) :
    lenBits p md v = .error .rangeVersion := by
  simp only [lenBits, checkVersion_of_range h]

theorem segmentCost_eq (p : Params) (md : Mode) (c v : Nat) :
    segmentCost p md.code c v = 4 + lengthWidth p md.code v + contentBits md c := by
  cases md with
  | numeric =>
    have hlast : [0, 4, 7].getD (c % 3) 0 = if c % 3 = 0 then 0 else if c % 3 = 1 then 4 else 7 := by
      have hlt : c % 3 < 3 := Nat.mod_lt _ (by omega)
      interval_cases c % 3 <;> rfl
    simp only [segmentCost, contentBits, Mode.code, hlast]
  | alphanumeric => rfl
  | byte => rfl

theorem bitCost_eq_ok {v : Nat} (h1 : 1 ≤ v) (h2 : v ≤ 40) (p : Params) (md : Mode) (c : Nat) :
    bitCost p md c v = .ok (segmentCost p md.code c v) := by
  simp only [bitCost, lenBits_eq_ok h1 h2, segmentCost_eq]

theorem bitCost_eq_error {v : Nat} (h : v = 0 ∨ 40 < v) (p : Params) (md : Mode) (c : Nat) :
    bitCost p md c v = .error .rangeVersion := by
  simp only [bitCost, lenBits_eq_error h]

/-! ## Outcomes -/

section
variable {s : State} {i : Nat} {g : Segment}

/-- A segment that does not load ends each of the three commands with its error. -/
theorem exec_segment_error {c : Instr} {e : ErrCode} (hc : c = .segClassify i ∨ c = .segCost i ∨ c = .segWrite i)
    (h : loadSegment s i = .error e) : exec c s = .next (s.raise e) := by
  rcases hc with rfl | rfl | rfl
  · exact complete_error (by rw [ruleSegClassify, h])
  · exact complete_error (by rw [ruleSegCost, h])
  · exact complete_error (by rw [ruleSegWrite, h])

theorem exec_segClassify (h : loadSegment s i = .ok g) :
    exec (.segClassify i) s = .next { s.completed with result := BitVec.ofNat 32 g.mode.code } := by
  have hrule : ruleSegClassify i s = .ok { s with result := BitVec.ofNat 32 g.mode.code } := by
    simp only [ruleSegClassify, h]
  exact complete_ok hrule

theorem exec_segCost_of_version (h : loadSegment s i = .ok g) (h1 : 1 ≤ s.arg0.toNat) (h2 : s.arg0.toNat ≤ 40) :
    exec (.segCost i) s = .next { s.completed with
      result := BitVec.ofNat 32 (segmentCost s.params g.mode.code g.payload.length s.arg0.toNat) } := by
  have hrule : ruleSegCost i s = .ok { s with
      result := BitVec.ofNat 32 (segmentCost s.params g.mode.code g.payload.length s.arg0.toNat) } := by
    simp only [ruleSegCost, h, bitCost_eq_ok h1 h2]
  exact complete_ok hrule

theorem exec_segCost_of_range (h : loadSegment s i = .ok g) (hv : s.arg0.toNat = 0 ∨ 40 < s.arg0.toNat) :
    exec (.segCost i) s = .next (s.raise .rangeVersion) :=
  complete_error (by simp only [ruleSegCost, h, bitCost_eq_error hv])

theorem exec_segWrite_of_range (h : loadSegment s i = .ok g)
    (hv : s.resVersion.toNat = 0 ∨ 40 < s.resVersion.toNat) :
    exec (.segWrite i) s = .next (s.raise .rangeVersion) :=
  complete_error (by simp only [ruleSegWrite, h, lenBits_eq_error hv])

theorem exec_segWrite_of_full (h : loadSegment s i = .ok g) (h1 : 1 ≤ s.resVersion.toNat)
    (h2 : s.resVersion.toNat ≤ 40)
    (hroom : s.params.bbMaxBits <
      s.bitLen.toNat + segmentCost s.params g.mode.code g.payload.length s.resVersion.toNat) :
    exec (.segWrite i) s = .next (s.raise .hwBbFull) := by
  refine complete_error ?_
  simp only [ruleSegWrite, h, lenBits_eq_ok h1 h2, ← segmentCost_eq, bbOverflows, hroom, decide_true, if_true]

/-- The bits SEG_WRITE appends of a segment at RES.VERSION. -/
def State.writtenBits (s : State) (g : Segment) : List Bool :=
  segmentBits s.params g (lengthWidth s.params g.mode.code s.resVersion.toNat)

/-- SEG_WRITE appends as many bits as SEG_COST answers (`42_segment.md` R173). -/
theorem State.writtenBits_length (s : State) (g : Segment) : (s.writtenBits g).length =
    segmentCost s.params g.mode.code g.payload.length s.resVersion.toNat := by
  rw [State.writtenBits, segmentBits_length, segmentCost_eq]

theorem exec_segWrite_of_room (h : loadSegment s i = .ok g) (h1 : 1 ≤ s.resVersion.toNat)
    (h2 : s.resVersion.toNat ≤ 40)
    (hroom : s.bitLen.toNat + segmentCost s.params g.mode.code g.payload.length s.resVersion.toNat ≤
      s.params.bbMaxBits) :
    exec (.segWrite i) s = .next (s.putBits (s.writtenBits g)).succeed := by
  refine complete_ok ?_
  simp [ruleSegWrite, h, lenBits_eq_ok h1 h2, ← segmentCost_eq, bbOverflows, Nat.not_lt.2 hroom, State.writtenBits]

/-- A command that left ERR clear raised no error. -/
theorem not_raised {c : Instr} {t : State} (h : exec c s = .next t) (ht : t.err = false) (e : ErrCode) :
    exec c s ≠ .next (s.raise e) := by
  intro hr
  rw [h, Host.Outcome.next.injEq] at hr
  simp [hr] at ht

/-- What SEG_WRITE needed where it left ERR clear, and what it left. -/
theorem segWrite_succeeded {t : State} (h : exec (.segWrite i) s = .next t) (ht : t.err = false) :
    ∃ g, loadSegment s i = .ok g ∧ (1 ≤ s.resVersion.toNat ∧ s.resVersion.toNat ≤ 40) ∧
      s.bitLen.toNat + (s.writtenBits g).length ≤ s.params.bbMaxBits ∧ t = (s.putBits (s.writtenBits g)).succeed := by
  have hno := not_raised h ht
  cases hload : loadSegment s i with
  | error e => exact absurd (exec_segment_error (.inr (.inr rfl)) hload) (hno e)
  | ok g =>
    by_cases hv : 1 ≤ s.resVersion.toNat ∧ s.resVersion.toNat ≤ 40
    · obtain ⟨h1, h2⟩ := hv
      rcases Nat.lt_or_ge s.params.bbMaxBits
        (s.bitLen.toNat + segmentCost s.params g.mode.code g.payload.length s.resVersion.toNat) with hfull | hroom
      · exact absurd (exec_segWrite_of_full hload h1 h2 hfull) (hno _)
      · rw [exec_segWrite_of_room hload h1 h2 hroom, Host.Outcome.next.injEq] at h
        exact ⟨g, rfl, ⟨h1, h2⟩, by rwa [State.writtenBits_length], h.symm⟩
    · exact absurd (exec_segWrite_of_range hload (by omega)) (hno _)

end

/-! ## Payload groups -/

section
variable {s : State} {pos : Nat} {p : List Byte}

theorem digitValue_lt {b : Byte} (h : 0x30 ≤ b.toNat ∧ b.toNat ≤ 0x39) : digitValue b < 10 := by
  rw [digitValue]
  omega

/-- Digits stand in groups of three, then a last pair or a last digit. -/
theorem State.payloadAt_numeric (hp : AllDigits p) (h : s.BitsAt pos (numericBits p)) : s.PayloadAt 1 pos p := by
  refine ⟨fun _ => ?_, fun h => absurd h (by omega), fun h => absurd h (by omega)⟩
  induction p using numericBits.induct generalizing pos with
  | case1 x y z rest ih =>
    simp only [AllDigits, List.forall_mem_cons] at hp
    obtain ⟨hx, hy, hz, hrest⟩ := hp
    have hgroup : 100 * digitValue x + 10 * digitValue y + digitValue z < 2 ^ 10 := by
      have := digitValue_lt hx
      have := digitValue_lt hy
      have := digitValue_lt hz
      omega
    obtain ⟨hfirst, hlater⟩ := State.bitsAt_append h
    rw [bitsOf_length] at hlater
    obtain ⟨hgroups, hone, htwo⟩ := ih hrest hlater
    have hlen : (x :: y :: z :: rest).length = rest.length + 3 := rfl
    have hpos : ∀ k, pos + 10 * (k + 1) = pos + 10 + 10 * k := by omega
    rw [hlen, Nat.add_div_right _ (by omega), Nat.add_mod_right, hpos]
    refine ⟨fun k hk => ?_, fun hlast => ?_, fun hlast => ?_⟩
    · cases k with
      | zero => exact State.bbNumber_eq_of_lt hfirst hgroup
      | succ k => rw [hpos, hgroups k (by omega)]; rfl
    · rw [hone hlast, show rest.length + 3 - 1 = rest.length - 1 + 3 by omega]
      rfl
    · rw [htwo hlast, show rest.length + 3 - 1 = rest.length - 1 + 3 by omega,
        show rest.length + 3 - 2 = rest.length - 2 + 3 by omega]
      rfl
  | case2 x y =>
    simp only [AllDigits, List.forall_mem_cons] at hp
    obtain ⟨hx, hy, -⟩ := hp
    have hpair : 10 * digitValue x + digitValue y < 2 ^ 7 := by
      have := digitValue_lt hx
      have := digitValue_lt hy
      omega
    refine ⟨fun k hk => absurd hk (by simp), fun hlast => absurd hlast (by simp), fun _ => ?_⟩
    rw [show [x, y].length / 3 = 0 by simp, Nat.mul_zero, Nat.add_zero]
    exact State.bbNumber_eq_of_lt h hpair
  | case3 x =>
    have hdigit : digitValue x < 2 ^ 4 := (digitValue_lt (hp x (by simp))).trans (by omega)
    refine ⟨fun k hk => absurd hk (by simp), fun _ => ?_, fun hlast => absurd hlast (by simp)⟩
    rw [show [x].length / 3 = 0 by simp, Nat.mul_zero, Nat.add_zero]
    exact State.bbNumber_eq_of_lt h hdigit
  | case4 => exact ⟨fun k hk => absurd hk (by simp), fun hlast => absurd hlast (by simp),
      fun hlast => absurd hlast (by simp)⟩

/-- Alphanumeric characters stand in pairs, then a last single one. -/
theorem State.payloadAt_alphanumeric (hp : AllAlphanumeric p) (h : s.BitsAt pos (alphanumericBits p)) :
    s.PayloadAt 2 pos p := by
  refine ⟨fun h => absurd h (by omega), fun _ => ?_, fun h => absurd h (by omega)⟩
  induction p using alphanumericBits.induct generalizing pos with
  | case1 x y rest ih =>
    simp only [AllAlphanumeric, List.forall_mem_cons] at hp
    obtain ⟨hx, hy, hrest⟩ := hp
    have hpair : aindex x * 45 + aindex y < 2 ^ 11 := by
      have := aindex_lt hx
      have := aindex_lt hy
      omega
    obtain ⟨hfirst, hlater⟩ := State.bitsAt_append h
    rw [bitsOf_length] at hlater
    obtain ⟨hgroups, hone⟩ := ih hrest hlater
    have hlen : (x :: y :: rest).length = rest.length + 2 := rfl
    have hpos : ∀ k, pos + 11 * (k + 1) = pos + 11 + 11 * k := by omega
    rw [hlen, Nat.add_div_right _ (by omega), Nat.add_mod_right, hpos]
    refine ⟨fun k hk => ?_, fun hlast => ?_⟩
    · cases k with
      | zero =>
        rw [Nat.mul_zero, Nat.add_zero, State.bbNumber_eq_of_lt hfirst hpair, aindex_eq hx, aindex_eq hy, Nat.mul_comm]
        rfl
      | succ k => rw [hpos, hgroups k (by omega)]; rfl
    · rw [hone hlast, show rest.length + 2 - 1 = rest.length - 1 + 2 by omega]
      rfl
  | case2 x =>
    have hx : x.toNat ∈ alphabet45 := hp x (by simp)
    refine ⟨fun k hk => absurd hk (by simp), fun _ => ?_⟩
    rw [show [x].length / 2 = 0 by simp, Nat.mul_zero, Nat.add_zero]
    exact (State.bbNumber_eq_of_lt h ((aindex_lt hx).trans (by omega))).trans (aindex_eq hx)
  | case3 => exact ⟨fun k hk => absurd hk (by simp), fun hlast => absurd hlast (by simp)⟩

/-- Bytes stand as they are. -/
theorem State.payloadAt_byte (h : s.BitsAt pos (byteBits p)) : s.PayloadAt 4 pos p := by
  refine ⟨fun h => absurd h (by omega), fun h => absurd h (by omega), fun _ k hk => ?_⟩
  induction p generalizing pos k with
  | nil => exact absurd hk (by simp)
  | cons x rest ih =>
    rw [byteBits, List.flatMap_cons] at h
    obtain ⟨hfirst, hlater⟩ := State.bitsAt_append h
    rw [bitsOf_length] at hlater
    cases k with
    | zero => exact State.bbNumber_eq_of_lt hfirst x.isLt
    | succ k =>
      rw [show pos + 8 * (k + 1) = pos + 8 + 8 * k by omega, ih hlater k (Nat.lt_of_succ_lt_succ hk),
        List.getD_cons_succ]

/-- The payload bits of a mode stand as its groups, where the payload is of the mode's alphabet. -/
theorem State.payloadAt_of_bitsAt {md : Mode} (hn : md.code = 1 → AllDigits p) (ha : md.code = 2 → AllAlphanumeric p)
    (h : s.BitsAt pos (payloadBits md p)) : s.PayloadAt md.code pos p := by
  cases md with
  | numeric => exact State.payloadAt_numeric (hn rfl) h
  | alphanumeric => exact State.payloadAt_alphanumeric (ha rfl) h
  | byte => exact State.payloadAt_byte h

end

/-! ## The statements -/

/-- Settles O14: the segment loads in the resolved mode, and the cost is that of the mode and the count. -/
theorem segClassifyAndCost : Obligations.SegClassifyAndCost := by
  refine ⟨fun s i m _ h => ?_, fun s i m _ h h1 h2 => ?_⟩
  · obtain ⟨md, rfl, hload⟩ := loadSegment_of_segmentIs h
    exact exec_segClassify hload
  · obtain ⟨md, rfl, hload⟩ := loadSegment_of_segmentIs h
    rw [exec_segCost_of_version hload h1 h2, State.segPayload_length]

/-- Settles O15: the appended bits are the indicator's, the length field's and the payload's, one after another. -/
theorem segWriteResult : Obligations.SegWriteResult := by
  intro s i m _ h h1 h2 hfit hroom
  obtain ⟨md, rfl, hload⟩ := loadSegment_of_segmentIs h
  obtain ⟨hn, ha⟩ := alphabet_of_resolvesTo h.2
  obtain ⟨-, hbb, -⟩ := hfit
  rw [← State.segPayload_length] at hroom
  have hlen := s.writtenBits_length { mode := md, payload := s.segPayload i }
  have happ := State.appendedBits_putBits (hlen ▸ hroom.trans hbb)
  have hbits := State.bitsAt_putBits (hlen ▸ hroom.trans hbb)
  rw [hlen, State.segPayload_length] at happ
  obtain ⟨hhead, hpayload⟩ := State.bitsAt_append hbits
  obtain ⟨hind, hcount⟩ := State.bitsAt_append hhead
  rw [List.length_append, bitsOf_length, bitsOf_length, ← Nat.add_assoc] at hpayload
  rw [bitsOf_length] at hcount
  refine ⟨_, exec_segWrite_of_room hload h1 h2 hroom, happ, ?_, ?_, State.payloadAt_of_bitsAt hn ha hpayload⟩
  · rw [ByMode.at_code]
    exact State.bbNumber_of_bitsAt hind
  · rw [← State.segPayload_length, ← Nat.mod_mod (s.segPayload i).length]
    exact State.bbNumber_of_bitsAt hcount

/-- Settles O16: SEG_WRITE appends the bits of the segment it loads, which is the segment SEG_COST loads. -/
theorem costAndWriteAgree : Obligations.CostAndWriteAgree := by
  intro s i v cost written hfit hv hcost hwrite _ _ hw
  obtain ⟨-, hbb, -⟩ := hfit
  obtain ⟨g, hload, ⟨h1, h2⟩, hroom, rfl⟩ := segWrite_succeeded hwrite hw
  have harg : ({ s with arg0 := BitVec.ofNat 32 v } : State).arg0.toNat = s.resVersion.toNat := by
    rw [hv, BitVec.toNat_ofNat, Nat.mod_eq_of_lt (by omega)]
  have hload' : loadSegment { s with arg0 := BitVec.ofNat 32 v } i = .ok g := hload
  rw [exec_segCost_of_version hload' (by omega) (by omega), Host.Outcome.next.injEq] at hcost
  have hresult : cost.result = BitVec.ofNat 32 (s.writtenBits g).length := by
    rw [← hcost, harg, State.writtenBits_length]
  rw [hresult, BitVec.toNat_ofNat, Nat.mod_eq_of_lt (by omega), State.succeed_bitLen,
    State.putBits_bitLen s _ (hroom.trans hbb)]

/-- Settles O17: a segment that does not load ends each command, then the version and the room are checked. -/
theorem segErrors : Obligations.SegErrors := by
  intro s c i _ hc
  refine ⟨fun hm => exec_segment_error hc (loadSegment_of_mode hm), fun hm => ⟨fun hb => ?_, fun hb hp => ?_⟩,
    fun m h => ?_⟩
  · exact exec_segment_error hc (loadSegment_of_bounds hm hb)
  · exact exec_segment_error hc (loadSegment_of_alphabet hb hp)
  · obtain ⟨md, rfl, hload⟩ := loadSegment_of_segmentIs h
    refine ⟨?_, ?_, ?_⟩
    · rintro rfl hv
      exact exec_segCost_of_range hload hv
    · rintro rfl hv
      exact exec_segWrite_of_range hload hv
    · rintro rfl h1 h2 hfull
      exact exec_segWrite_of_full hload h1 h2 (by rwa [State.segPayload_length])

end Sys2Proof.Machine

/-! The bit-buffer commands (`43_bitbuffer.md` R180-R184): the bits each appends where there is room, and what each
leaves where there is none. -/

namespace Sys2Proof.Machine

/-! ## The appended bits -/

theorem bitsOf_zero (w : Nat) : bitsOf 0 w = List.replicate w false := by
  simp [bitsOf, List.eq_replicate_iff]

/-- Zero bits, read as a number, are 0. -/
theorem State.bbNumber_of_bitsAt_zeros {s : State} {pos w : Nat} (h : s.BitsAt pos (List.replicate w false)) :
    s.bbNumber pos w = 0 :=
  State.bbNumber_eq_of_lt (bitsOf_zero w ▸ h) (Nat.two_pow_pos w)

theorem padBits_succ (n : Nat) : padBits (n + 1) = padBits n ++ bitsOf (if n % 2 = 0 then 0xEC else 0x11) 8 := by
  simp [padBits, List.range_succ]

/-- Pad codewords stand one after another, 0xEC at the even places and 0x11 at the odd ones. -/
theorem State.bbNumber_of_bitsAt_padBits {s : State} {pos n : Nat} (h : s.BitsAt pos (padBits n)) {k : Nat}
    (hk : k < n) : s.bbNumber (pos + 8 * k) 8 = if k % 2 = 0 then 0xEC else 0x11 := by
  induction n with
  | zero => exact absurd hk (Nat.not_lt_zero k)
  | succ n ih =>
    rw [padBits_succ] at h
    obtain ⟨hbefore, hlast⟩ := State.bitsAt_append h
    rw [padBits_length] at hlast
    rcases Nat.lt_succ_iff_lt_or_eq.1 hk with hk | rfl
    · exact ih hbefore hk
    · exact State.bbNumber_eq_of_lt hlast (by split <;> decide)

theorem alignUp8_eq {n a : Nat} (ha : a % 8 = 0) (hle : n ≤ a) (hlt : a < n + 8) : alignUp8 n = a := by
  rw [alignUp8]
  omega

/-- The bits BB_PAD appends at BITLEN `n`: zero bits up to the byte boundary, then pad codewords (`43_bitbuffer.md`
R184). -/
def padding (n target : Nat) : List Bool :=
  List.replicate (alignUp8 n - n) false ++ padBits ((target - alignUp8 n + 7) / 8)

section
variable {n a target pads : Nat} (ha : a % 8 = 0) (hle : n ≤ a) (hlt : a < n + 8) (hreach : target ≤ a + 8 * pads)
  (hleast : pads = 0 ∨ a + 8 * pads < target + 8)
include ha hle hlt hreach hleast

/-- The byte boundary and the number of pad codewords are the only ones in R184's bounds. -/
theorem padding_eq : padding n target = List.replicate (a - n) false ++ padBits pads := by
  have hpads : (target - a + 7) / 8 = pads := by omega
  rw [padding, alignUp8_eq ha hle hlt, hpads]

theorem padding_length_eq : (padding n target).length = a + 8 * pads - n := by
  rw [padding_eq ha hle hlt hreach hleast, List.length_append, List.length_replicate, padBits_length]
  omega

end

theorem padding_end (n target : Nat) :
    n + (padding n target).length = alignUp8 n + 8 * ((target - alignUp8 n + 7) / 8) := by
  rw [padding, List.length_append, List.length_replicate, padBits_length, ← Nat.add_assoc, Nat.add_sub_cancel']
  rw [alignUp8]
  omega

/-- Padding to a byte boundary ends there. -/
theorem padding_end_of_aligned {n m : Nat} (hm : m % 8 = 0) (hn : n ≤ m) : n + (padding n m).length = m := by
  rw [padding_end, alignUp8]
  omega

/-- Within a byte of the target there are no pad codewords. -/
theorem padding_of_near {n m : Nat} (hm : m % 8 = 0) (hn : n ≤ m) (hlt : m < n + 8) :
    padding n m = List.replicate (m - n) false := by
  rw [padding_eq (pads := 0) hm hn hlt (Nat.le_refl m) (.inl rfl)]
  exact List.append_nil _

/-! ## Outcomes -/

section
variable {s : State} {width max target : Nat}

theorem bbOverflows_eq_false {count : Nat} (h : s.bitLen.toNat + count ≤ s.params.bbMaxBits) :
    bbOverflows s count = false := decide_eq_false (Nat.not_lt.2 h)

theorem bbOverflows_eq_true {count : Nat} (h : s.params.bbMaxBits < s.bitLen.toNat + count) :
    bbOverflows s count = true := decide_eq_true h

theorem exec_bbPut_of_room (hw : width ≤ 32) (h : s.bitLen.toNat + width ≤ s.params.bbMaxBits) :
    exec (.bbPut width) s = .next (s.putBits (bitsOf s.arg0.toNat width)).succeed := by
  refine complete_ok ?_
  rw [ruleBbPut, if_neg (Nat.not_lt.2 hw), bbOverflows_eq_false h]
  rfl

theorem exec_bbPut_of_width (hw : 32 < width) : exec (.bbPut width) s = .next (s.raise .hwOperand) :=
  complete_error (if_pos hw)

theorem exec_bbPut_of_full (hw : width ≤ 32) (h : s.params.bbMaxBits < s.bitLen.toNat + width) :
    exec (.bbPut width) s = .next (s.raise .hwBbFull) := by
  refine complete_error ?_
  rw [ruleBbPut, if_neg (Nat.not_lt.2 hw), if_pos (bbOverflows_eq_true h)]

theorem exec_bbEom_of_room (hmax : s.bitLen.toNat + 4 ≤ max) (h : s.bitLen.toNat + 4 ≤ s.params.bbMaxBits) :
    exec (.bbEom max) s = .next (s.putBits (List.replicate 4 false)).succeed := by
  refine complete_ok ?_
  rw [ruleBbEom, if_pos hmax, bbOverflows_eq_false h]
  rfl

theorem exec_bbEom_of_full (hmax : s.bitLen.toNat + 4 ≤ max) (h : s.params.bbMaxBits < s.bitLen.toNat + 4) :
    exec (.bbEom max) s = .next (s.raise .hwBbFull) := by
  refine complete_error ?_
  rw [ruleBbEom, if_pos hmax, if_pos (bbOverflows_eq_true h)]

theorem exec_bbEom_omitted (hmax : max < s.bitLen.toNat + 4) : exec (.bbEom max) s = .next s.succeed :=
  complete_ok (if_neg (Nat.not_le.2 hmax))

theorem exec_bbPad_of_room (h : s.bitLen.toNat + (padding s.bitLen.toNat target).length ≤ s.params.bbMaxBits) :
    exec (.bbPad target) s = .next (s.putBits (padding s.bitLen.toNat target)).succeed := by
  rw [padding_end] at h
  refine complete_ok ?_
  rw [padding, State.putBits_append]
  exact if_neg (Nat.not_lt.2 h)

theorem exec_bbPad_of_full (h : s.params.bbMaxBits < s.bitLen.toNat + (padding s.bitLen.toNat target).length) :
    exec (.bbPad target) s = .next (s.raise .hwBbFull) := by
  rw [padding_end] at h
  exact complete_error (if_pos h)

end

/-! ## The terminators -/

/-- Two states that agree on all that appending bits reads and writes, and so in every byte of the map. -/
structure State.SameBuffer (s t : State) : Prop where
  params : t.params = s.params
  draws : t.draws = s.draws
  mem : t.mem = s.mem
  bitLen : t.bitLen = s.bitLen

namespace State.SameBuffer
variable {s t u : State}

theorem trans (h : s.SameBuffer t) (h' : t.SameBuffer u) : s.SameBuffer u :=
  ⟨h'.params.trans h.params, h'.draws.trans h.draws, h'.mem.trans h.mem, h'.bitLen.trans h.bitLen⟩

theorem byteAt (h : s.SameBuffer t) (a : Nat) : t.byteAt a = s.byteAt a := by
  rw [State.byteAt, h.draws, h.mem, State.byteAt]

theorem putBit (h : s.SameBuffer t) (b : Bool) : (s.putBit b).SameBuffer (t.putBit b) := by
  refine ⟨h.params, h.draws, ?_, ?_⟩
  · rw [State.putBit_mem, State.putBit_mem, h.byteAt, h.mem, h.bitLen]
  · rw [State.putBit_bitLen, State.putBit_bitLen, h.bitLen]

theorem putBits (h : s.SameBuffer t) (bits : List Bool) : (s.putBits bits).SameBuffer (t.putBits bits) := by
  induction bits generalizing s t with
  | nil => exact h
  | cons b rest ih => exact ih (h.putBit b)

theorem succeed (s : State) : s.SameBuffer s.succeed := ⟨rfl, rfl, rfl, rfl⟩

end State.SameBuffer

/-- BB_PAD to a byte boundary with room for it, after an append: BITLEN is the boundary, and the buffer is that of
appending the padding too. -/
theorem exec_bbPad_after_putBits {s e : State} {bits : List Bool} {m : Nat} (hfit : s.params.Fits) (hm : m % 8 = 0)
    (hroom : m ≤ s.params.bbMaxBits) (hlen : s.bitLen.toNat + bits.length ≤ m) (he : (s.putBits bits).SameBuffer e) :
    ∃ t, exec (.bbPad m) e = .next t ∧ t.bitLen.toNat = m ∧
      (s.putBits (bits ++ padding (s.bitLen.toNat + bits.length) m)).SameBuffer t := by
  obtain ⟨-, hbb, -⟩ := hfit
  have hparams : e.params = s.params := by rw [he.params, State.putBits_frame]
  have hstart : e.bitLen.toNat = s.bitLen.toNat + bits.length := by
    rw [he.bitLen, State.putBits_bitLen s bits (by omega)]
  have hend : e.bitLen.toNat + (padding e.bitLen.toNat m).length = m :=
    padding_end_of_aligned hm (by omega)
  refine ⟨_, exec_bbPad_of_room (by rw [hend, hparams]; exact hroom), ?_, ?_⟩
  · rw [State.succeed_bitLen, State.putBits_bitLen _ _ (by omega), hend]
  · rw [State.putBits_append, ← hstart]
    exact (he.putBits _).trans (.succeed _)

/-- Fewer than four bits before the boundary, the zero bits that the partial terminator appends are those that padding
appends (`43_bitbuffer.md` R186). -/
theorem partial_terminator_padded {n m : Nat} (hm : m % 8 = 0) (hn : n ≤ m) (hlt : m < n + 4) :
    List.replicate (min 4 (m - n)) false ++ padding (n + min 4 (m - n)) m = padding n m := by
  have hmin : min 4 (m - n) = m - n := by omega
  have hend : n + (m - n) = m := by omega
  rw [hmin, hend, padding_of_near hm (Nat.le_refl m) (by omega), padding_of_near hm hn (by omega), Nat.sub_self]
  exact List.append_nil _

/-- BB_PUT of a 0 with room for it appends zero bits. -/
theorem exec_bbPut_zero {s : State} {width : Nat} (hw : width ≤ 32)
    (h : s.bitLen.toNat + width ≤ s.params.bbMaxBits) :
    ∃ p, exec (.bbPut width) { s with arg0 := 0 } = .next p ∧
      (s.putBits (List.replicate width false)).SameBuffer p := by
  have hsame : s.SameBuffer { s with arg0 := 0 } := ⟨rfl, rfl, rfl, rfl⟩
  refine ⟨_, exec_bbPut_of_room (s := { s with arg0 := 0 }) hw h, ?_⟩
  rw [← bitsOf_zero]
  exact (hsame.putBits _).trans (.succeed _)

/-! ## The statements -/

/-- Settles O18: no byte of BB is listed after BB_CLEAR, so each reads 0. -/
theorem bbClearResult : Obligations.BbClearResult := by
  refine ⟨fun s hfit => ?_, illegalWhere_of_rows (by simp [opcodeRows])⟩
  obtain ⟨-, hbb, -⟩ := hfit
  refine ⟨_, complete_ok (rule := ruleBbClear) rfl, rfl, fun i hi => ?_, Effect.sameOutside .clear⟩
  exact State.byteAt_bb_unlisted (by omega)
    (Memory.lookup_replace_inside s.mem [] ⟨Nat.le_add_right _ i, Nat.add_lt_add_left hi _⟩)

/-- Settles O19: the appended bits are those of ARG0. -/
theorem bbPutResult : Obligations.BbPutResult := by
  refine ⟨fun s width hfit hw hroom => ?_, fun s width => exec_bbPut_of_width, fun s width => exec_bbPut_of_full,
    illegalWhere_of_rows (by simp [opcodeRows])⟩
  obtain ⟨-, hbb, -⟩ := hfit
  have hlen : s.bitLen.toNat + (bitsOf s.arg0.toNat width).length ≤ 32768 := by
    rw [bitsOf_length]
    exact hroom.trans hbb
  have happ := State.appendedBits_putBits hlen
  rw [bitsOf_length] at happ
  exact ⟨_, exec_bbPut_of_room hw hroom, happ, State.bbNumber_of_bitsAt (State.bitsAt_putBits hlen)⟩

/-- Settles O20: the appended bits are four zeros. -/
theorem bbEomResult : Obligations.BbEomResult := by
  refine ⟨fun s max hfit hmax hroom => ?_, fun s max => exec_bbEom_of_full, fun s max => exec_bbEom_omitted,
    illegalWhere_of_rows (by simp [opcodeRows])⟩
  obtain ⟨-, hbb, -⟩ := hfit
  have hlen : s.bitLen.toNat + (List.replicate 4 false).length ≤ 32768 := hroom.trans hbb
  exact ⟨_, exec_bbEom_of_room hmax hroom, State.appendedBits_putBits hlen,
    State.bbNumber_of_bitsAt_zeros (State.bitsAt_putBits hlen)⟩

/-- Settles O21: the byte boundary `a` and the number of pad codewords are those of the padding. -/
theorem bbPadResult : Obligations.BbPadResult := by
  refine ⟨fun s target a pads hfit ha hle hlt hreach hleast hroom => ?_,
    fun s target a pads ha hle hlt hreach hleast hfull => ?_, illegalWhere_of_rows (by simp [opcodeRows])⟩
  · obtain ⟨-, hbb, -⟩ := hfit
    have hlen := padding_length_eq ha hle hlt hreach hleast
    have hcap : s.bitLen.toNat + (padding s.bitLen.toNat target).length ≤ 32768 := by omega
    have happ := State.appendedBits_putBits hcap
    have hbits := State.bitsAt_putBits hcap
    rw [hlen] at happ
    nth_rw 2 [padding_eq ha hle hlt hreach hleast] at hbits
    obtain ⟨hzeros, hpads⟩ := State.bitsAt_append hbits
    rw [List.length_replicate, Nat.add_sub_cancel' hle] at hpads
    exact ⟨_, exec_bbPad_of_room (by omega), happ, State.bbNumber_of_bitsAt_zeros hzeros,
      fun k => State.bbNumber_of_bitsAt_padBits hpads⟩
  · have hlen := padding_length_eq ha hle hlt hreach hleast
    exact exec_bbPad_of_full (by omega)

/-- Settles O22: with four bits of room both append four zeros; with less the source's terminator appends nothing, and
the standard's is the start of the padding. -/
theorem terminatorEquivalence : Obligations.TerminatorEquivalence := by
  intro s e p m hfit hm hroom hle he hp
  have hmin : s.bitLen.toNat + min 4 (m - s.bitLen.toNat) ≤ m := by omega
  obtain ⟨p', hp', hpsame⟩ := exec_bbPut_zero (s := s) (width := min 4 (m - s.bitLen.toNat)) (by omega) (by omega)
  obtain rfl : p' = p := Host.Outcome.next.inj (hp'.symm.trans hp)
  obtain ⟨u, hu, hulen, husame⟩ := exec_bbPad_after_putBits hfit hm hroom
    (by rw [List.length_replicate]; exact hmin) hpsame
  rw [List.length_replicate] at husame
  suffices h : ∃ t, exec (.bbPad m) e = .next t ∧ t.bitLen.toNat = m ∧
      (s.putBits (List.replicate (min 4 (m - s.bitLen.toNat)) false ++
        padding (s.bitLen.toNat + min 4 (m - s.bitLen.toNat)) m)).SameBuffer t by
    obtain ⟨t, ht, htlen, htsame⟩ := h
    exact ⟨t, u, ht, hu, htlen, hulen, fun i _ => (htsame.byteAt _).trans (husame.byteAt _).symm⟩
  rcases Nat.lt_or_ge m (s.bitLen.toNat + 4) with hlt | hfour
  · rw [exec_bbEom_omitted hlt, Host.Outcome.next.injEq] at he
    subst he
    rw [partial_terminator_padded hm hle hlt]
    exact exec_bbPad_after_putBits (bits := []) hfit hm hroom hle (.succeed s)
  · rw [exec_bbEom_of_room hfour (by omega), Host.Outcome.next.injEq] at he
    subst he
    have hwidth : min 4 (m - s.bitLen.toNat) = 4 := by omega
    rw [hwidth]
    exact exec_bbPad_after_putBits (bits := List.replicate 4 false) hfit hm hroom hfour (.succeed _)

end Sys2Proof.Machine

/-! EC_INFO (`44_codeword.md` R200, R202-R204): a row of EC_TABLE as blocks, and the block structure and capacity the
command answers. -/

namespace Sys2Proof.Machine

/-! ## The blocks of a row -/

theorem expandGroups_cons (g : EcGroup) (gs : List EcGroup) :
    expandGroups (g :: gs) = List.replicate g.count ⟨g.total, g.data⟩ ++ expandGroups gs := List.flatMap_cons

@[simp] theorem expandGroups_length (gs : List EcGroup) : (expandGroups gs).length = blockCount gs := by
  induction gs with
  | nil => rfl
  | cons g gs ih => rw [expandGroups_cons, List.length_append, List.length_replicate, ih]; rfl

@[simp] theorem expandGroups_data_sum (gs : List EcGroup) :
    ((expandGroups gs).map Block.data).sum = dataCount gs := by
  induction gs with
  | nil => rfl
  | cons g gs ih =>
    rw [expandGroups_cons, List.map_append, List.sum_append, ih, List.map_replicate, List.sum_replicate, smul_eq_mul]
    rfl

theorem capacity_expandGroups (gs : List EcGroup) : capacity (expandGroups gs) = 8 * dataCount gs := by
  rw [capacity, expandGroups_data_sum]

/-- The first block is one of the first group that has any. -/
theorem headD_error_expandGroups (gs : List EcGroup) :
    ((expandGroups gs).map Block.error).headD 0 = firstError gs := by
  induction gs with
  | nil => rfl
  | cons g gs ih =>
    rw [expandGroups_cons, firstError]
    rcases Nat.eq_zero_or_pos g.count with h0 | hpos
    · rw [List.filter_cons_of_neg (by simp [h0]), h0]
      exact ih
    · obtain ⟨n, hn⟩ := Nat.exists_eq_succ_of_ne_zero (Nat.ne_of_gt hpos)
      rw [List.filter_cons_of_pos (by simp [hpos]), hn]
      rfl

theorem ecLookup_of_version {v : Nat} (h1 : 1 ≤ v) (h40 : v ≤ 40) (p : Params) (lvl : BitVec 2) :
    ecLookup p v lvl = .ok (expandGroups (p.ecGroups v lvl)) := by
  rw [ecLookup, checkVersion_eq_ok.2 ⟨h1, h40⟩]

theorem ecLookup_of_range {v : Nat} (h : v = 0 ∨ 40 < v) (p : Params) (lvl : BitVec 2) :
    ecLookup p v lvl = .error .rangeVersion := by
  rw [ecLookup, checkVersion_of_range h]

/-- ECINFO in the terms of the row's groups. -/
theorem writeEcInfo_expandGroups (s : State) (gs : List EcGroup) :
    writeEcInfo s (expandGroups gs) = { s with
      ecNBlocks := BitVec.ofNat 8 (blockCount gs)
      ecEcpb := BitVec.ofNat 8 (firstError gs)
      ecTotal := BitVec.ofNat 16 (totalCount gs) } := by
  rw [writeEcInfo, expandGroups_length, headD_error_expandGroups, totalCodewords_expandGroups]

/-! ## EC_INFO -/

theorem ruleEcInfo_of_lookup {s : State} {blocks : List Block}
    (h : ecLookup s.params s.arg0.toNat s.cfgLevel = .ok blocks) :
    ruleEcInfo s = .ok { writeEcInfo s blocks with result := BitVec.ofNat 32 (capacity blocks) } := by
  rw [ruleEcInfo, h]

theorem ruleEcInfo_error {s : State} {e : ErrCode} (h : ecLookup s.params s.arg0.toNat s.cfgLevel = .error e) :
    ruleEcInfo s = .error e := by
  rw [ruleEcInfo, h]

/-- Settles O23: the sums over the blocks are those over the groups. -/
theorem ecInfoResult : Obligations.EcInfoResult := by
  refine ⟨fun s v h1 h40 hv => ?_, fun s h => complete_error (ruleEcInfo_error (ecLookup_of_range h _ _)),
    illegalWhere_of_rows (by simp [opcodeRows])⟩
  subst hv
  have h := ruleEcInfo_of_lookup (ecLookup_of_version h1 h40 s.params s.cfgLevel)
  rw [writeEcInfo_expandGroups, capacity_expandGroups] at h
  exact complete_ok h

end Sys2Proof.Machine

/-! RS_ASSEMBLE's checks (`44_codeword.md` R206): the version, then the length of the buffer. -/

namespace Sys2Proof.Machine

section
variable {s : State} {blocks : List Block}

theorem ruleRsAssemble_of_range (h : s.resVersion.toNat = 0 ∨ 40 < s.resVersion.toNat) :
    ruleRsAssemble s = .error .rangeVersion := by
  rw [ruleRsAssemble, ecLookup_of_range h]

variable (hb : ecLookup s.params s.resVersion.toNat s.cfgLevel = .ok blocks)
include hb

theorem ruleRsAssemble_of_long (h : capacity blocks < s.bitLen.toNat) : ruleRsAssemble s = .error .capOverflow := by
  rw [ruleRsAssemble, hb]
  exact if_pos h

theorem ruleRsAssemble_of_short (h : s.bitLen.toNat < capacity blocks) : ruleRsAssemble s = .error .hwNotPadded := by
  rw [ruleRsAssemble, hb]
  exact (if_neg (by omega)).trans (if_pos h)

theorem ruleRsAssemble_of_full {ecs : List (List Byte)} (h : s.bitLen.toNat = capacity blocks)
    (hecs : allErrorCodewords blocks (splitData blocks (s.bytesAt Window.bb.base (capacity blocks / 8))) = .ok ecs) :
    ruleRsAssemble s = .ok { writeEcInfo (s.storeCw
        (interleave (splitData blocks (s.bytesAt Window.bb.base (capacity blocks / 8))) ecs)) blocks with
      cwLen := BitVec.ofNat 16 (totalCodewords blocks) } := by
  rw [ruleRsAssemble, hb]
  dsimp only
  rw [if_neg (by omega), if_neg (by omega), hecs]

end

/-- Settles O25: the checks in their order; the capacity of a version's row is that of its groups. -/
theorem rsAssembleErrors : Obligations.RsAssembleErrors := by
  refine ⟨fun s h => complete_error (ruleRsAssemble_of_range h), fun s v h1 h40 hv => ?_,
    illegalWhere_of_rows (by simp [opcodeRows])⟩
  subst hv
  have hb := ecLookup_of_version h1 h40 s.params s.cfgLevel
  rw [← capacity_expandGroups]
  exact ⟨fun h => complete_error (ruleRsAssemble_of_long hb h),
    fun h => complete_error (ruleRsAssemble_of_short hb h)⟩

end Sys2Proof.Machine

/-! The order of interleaving (`44_codeword.md` R207): blocks written as the rows of a table, read column by column. -/

namespace Sys2Proof.Machine

/-! ## Columns -/

/-- Position `i` of every block that has one, in block order. -/
def column (ls : List (List Byte)) (i : Nat) : List Byte := ls.filterMap fun l => l[i]?

/-- The first `n` columns, one after another. -/
def columns (n : Nat) (ls : List (List Byte)) : List Byte := (List.range n).flatMap (column ls)

theorem columns_add (n m : Nat) (ls : List (List Byte)) :
    columns (n + m) ls = columns n ls ++ (List.range m).flatMap fun i => column ls (n + i) := by
  rw [columns, List.range_add, List.flatMap_append, List.flatMap_map]
  rfl

theorem columns_succ (n : Nat) (ls : List (List Byte)) : columns (n + 1) ls = columns n ls ++ column ls n := by
  rw [columns_add, List.range_one, List.flatMap_singleton, Nat.add_zero]

/-- A column to which no block reaches is empty. -/
theorem column_of_short {ls : List (List Byte)} {i : Nat} (h : ∀ l ∈ ls, l.length ≤ i) : column ls i = [] :=
  List.filterMap_eq_nil_iff.2 fun l hl => List.getElem?_eq_none (h l hl)

/-- In a column to which every block reaches, block `j` stands at place `j`. -/
theorem column_of_long {ls : List (List Byte)} {i : Nat} (h : ∀ l ∈ ls, i < l.length) :
    column ls i = ls.map fun l => l.getD i 0 :=
  List.filterMap_eq_map_iff_forall_eq_some.2 fun l hl => by
    rw [List.getD_eq_getElem _ _ (h l hl), List.getElem?_eq_getElem (h l hl)]

theorem column_getElem? {ls : List (List Byte)} {i j : Nat} (h : ∀ l ∈ ls, i < l.length) (hj : j < ls.length) :
    (column ls i)[j]? = (ls.getD j [])[i]? := by
  have hi := h ls[j] (List.getElem_mem hj)
  rw [column_of_long h, List.getElem?_map, List.getElem?_eq_getElem hj, List.getD_eq_getElem _ _ hj,
    List.getElem?_eq_getElem hi, Option.map_some, List.getD_eq_getElem _ _ hi]

/-- Interleaving reads as many columns as the longest block has positions; further columns are empty. -/
theorem interleaveLists_eq_columns {ls : List (List Byte)} {n : Nat} (h : ∀ l ∈ ls, l.length ≤ n) :
    interleaveLists ls = columns n ls := by
  have hmax : ∀ l ∈ ls, l.length ≤ (ls.map List.length).foldl max 0 := fun l hl => by
    rw [List.foldl_max, Nat.zero_max]
    exact List.le_max?_getD_of_mem (List.mem_map_of_mem hl)
  have hle : (ls.map List.length).foldl max 0 ≤ n :=
    List.foldlRecOn (motive := (· ≤ n)) _ _ (Nat.zero_le n) fun b hb a ha => by
      obtain ⟨l, hl, rfl⟩ := List.mem_map.1 ha
      exact max_le hb (h l hl)
  obtain ⟨m, rfl⟩ := Nat.exists_eq_add_of_le hle
  have hempty : ((List.range m).flatMap fun i => column ls ((ls.map List.length).foldl max 0 + i)) = [] :=
    List.flatMap_eq_nil_iff.2 fun i _ => column_of_short fun l hl => (hmax l hl).trans (Nat.le_add_right _ i)
  rw [columns_add, hempty, List.append_nil]
  rfl

/-! ## Lengths -/

theorem column_length (ls : List (List Byte)) (i : Nat) :
    (column ls i).length + (ls.map fun l => min i l.length).sum = (ls.map fun l => min (i + 1) l.length).sum := by
  induction ls with
  | nil => rfl
  | cons l ls ih =>
    simp only [column, List.map_cons, List.sum_cons, List.filterMap_cons] at ih ⊢
    by_cases hi : i < l.length
    · simp only [List.getElem?_eq_getElem hi, List.length_cons]
      omega
    · simp only [List.getElem?_eq_none (Nat.le_of_not_lt hi)]
      omega

theorem columns_length (n : Nat) (ls : List (List Byte)) :
    (columns n ls).length = (ls.map fun l => min n l.length).sum := by
  induction n with
  | zero => simp [columns]
  | succ n ih => rw [columns_succ, List.length_append, ih, ← column_length, Nat.add_comm]

/-- Interleaving keeps every codeword. -/
theorem interleaveLists_length (ls : List (List Byte)) :
    (interleaveLists ls).length = (ls.map List.length).sum := by
  have hle : ∀ l ∈ ls, l.length ≤ (ls.map List.length).sum := fun l hl =>
    List.le_sum_of_mem (List.mem_map_of_mem hl)
  rw [interleaveLists_eq_columns hle, columns_length]
  exact congrArg List.sum (List.map_congr_left fun l hl => Nat.min_eq_right (hle l hl))

/-! ## Places -/

/-- Columns to which every block reaches have one place for each block. -/
theorem columns_length_of_long {n : Nat} {ls : List (List Byte)} (h : ∀ l ∈ ls, n ≤ l.length) :
    (columns n ls).length = n * ls.length := by
  rw [columns_length, List.map_congr_left fun l hl => Nat.min_eq_left (h l hl)]
  simp [Nat.mul_comm]

theorem columns_getElem? {n : Nat} {ls : List (List Byte)} (h : ∀ l ∈ ls, n ≤ l.length) {i j : Nat} (hi : i < n)
    (hj : j < ls.length) : (columns n ls)[i * ls.length + j]? = (ls.getD j [])[i]? := by
  induction n with
  | zero => exact absurd hi (Nat.not_lt_zero i)
  | succ n ih =>
    have hn : ∀ l ∈ ls, n ≤ l.length := fun l hl => Nat.le_of_succ_le (h l hl)
    have hlen := columns_length_of_long hn
    rw [columns_succ]
    rcases Nat.lt_succ_iff_lt_or_eq.1 hi with hlt | rfl
    · have hmul := Nat.mul_le_mul_right ls.length (Nat.succ_le_of_lt hlt)
      rw [Nat.succ_mul] at hmul
      rw [List.getElem?_append_left (by omega), ih hn hlt]
    · rw [List.getElem?_append_right (by omega), hlen, Nat.add_sub_cancel_left, column_getElem? h hj]

/-! ## Short blocks, then blocks one longer -/

section
variable {short long : List (List Byte)} {n : Nat} (hshort : ∀ l ∈ short, l.length = n)
  (hlong : ∀ l ∈ long, l.length = n + 1)
include hshort hlong

theorem le_length_of_short_first : ∀ l ∈ short ++ long, n ≤ l.length :=
  List.forall_mem_append.2 ⟨fun l hl => (hshort l hl).ge, fun l hl => hlong l hl ▸ Nat.le_succ n⟩

/-- The short blocks are skipped in the last column. -/
theorem interleaveLists_of_short_first :
    interleaveLists (short ++ long) = columns n (short ++ long) ++ column long n := by
  have hle : ∀ l ∈ short ++ long, l.length ≤ n + 1 := List.forall_mem_append.2
    ⟨fun l hl => (hshort l hl).le.trans (Nat.le_succ n), fun l hl => (hlong l hl).le⟩
  have hskip : column short n = [] := column_of_short fun l hl => (hshort l hl).le
  have hlast : column (short ++ long) n = column short n ++ column long n := List.filterMap_append
  rw [interleaveLists_eq_columns hle, columns_succ, hlast, hskip, List.nil_append]

theorem interleaveLists_length_of_short_first :
    (interleaveLists (short ++ long)).length = n * (short ++ long).length + long.length := by
  rw [interleaveLists_of_short_first hshort hlong, List.length_append,
    columns_length_of_long (le_length_of_short_first hshort hlong),
    column_of_long fun l hl => hlong l hl ▸ Nat.lt_succ_self n, List.length_map]

theorem interleaveLists_getElem?_of_short_first {i j : Nat} (hi : i < n) (hj : j < (short ++ long).length) :
    (interleaveLists (short ++ long))[i * (short ++ long).length + j]? = ((short ++ long).getD j [])[i]? := by
  have hle := le_length_of_short_first hshort hlong
  have hlt : i * (short ++ long).length + j < n * (short ++ long).length := by nlinarith
  rw [interleaveLists_of_short_first hshort hlong,
    List.getElem?_append_left (by rwa [columns_length_of_long hle]), columns_getElem? hle hi hj]

theorem interleaveLists_getElem?_last_of_short_first {j : Nat} (hj : j < long.length) :
    (interleaveLists (short ++ long))[n * (short ++ long).length + j]? = (long.getD j [])[n]? := by
  have hlen := columns_length_of_long (le_length_of_short_first hshort hlong)
  rw [interleaveLists_of_short_first hshort hlong, List.getElem?_append_right (by omega), hlen,
    Nat.add_sub_cancel_left, column_getElem? (fun l hl => hlong l hl ▸ Nat.lt_succ_self n) hj]

end

/-! ## The statement -/

theorem forall_mem_of_getD {ls : List (List Byte)} {p : List Byte → Prop} (h : ∀ j, j < ls.length → p (ls.getD j [])) :
    ∀ l ∈ ls, p l := by
  intro l hl
  obtain ⟨j, hj, rfl⟩ := List.getElem_of_mem hl
  have hp := h j hj
  rwa [List.getD_eq_getElem _ _ hj] at hp

/-- Settles O26: the data blocks are short ones, then longer ones, and the error codewords are short ones alone. -/
theorem interleaveOrder : Obligations.InterleaveOrder := by
  intro ds es m k n e hds hes _ hshort hlong herror
  obtain ⟨short, long, rfl, rfl⟩ : ∃ short long, ds = short ++ long ∧ m = short.length :=
    ⟨ds.take m, ds.drop m, (List.take_append_drop m ds).symm, by rw [List.length_take]; omega⟩
  have hk : long.length = k := by rw [List.length_append] at hds; omega
  have hs : ∀ l ∈ short, l.length = n := forall_mem_of_getD fun j hj => by
    rw [← hshort j hj, List.getD_append _ _ _ _ hj]
  have hl : ∀ l ∈ long, l.length = n + 1 := forall_mem_of_getD fun j hj => by
    rw [← hlong (short.length + j) (by omega) (by omega), List.getD_append_right _ _ _ _ (by omega),
      Nat.add_sub_cancel_left]
  have he : ∀ l ∈ es, l.length = e := forall_mem_of_getD fun j hj => herror j (hes ▸ hj)
  have hdlen := interleaveLists_length_of_short_first hs hl
  have helen := interleaveLists_length_of_short_first he (long := []) (by simp)
  have hget := @interleaveLists_getElem?_of_short_first _ _ _ hs hl
  have hlast := @interleaveLists_getElem?_last_of_short_first _ _ _ hs hl
  have heget := @interleaveLists_getElem?_of_short_first _ [] _ he (by simp)
  rw [List.append_nil] at helen heget
  rw [hds] at hdlen hget hlast
  rw [hes] at helen heget
  rw [hk] at hdlen hlast
  rw [interleave]
  refine ⟨?_, fun i j hi hj => ?_, fun j hj => ?_, fun i j hi hj => ?_⟩
  · rw [List.length_append, hdlen, helen, List.length_nil, Nat.mul_comm n, Nat.mul_comm e, Nat.add_zero]
  · have hlt : i * (short.length + k) + j < n * (short.length + k) := by nlinarith
    rw [List.getElem?_append_left (by omega), hget hi hj]
  · rw [List.getElem?_append_left (by omega), hlast hj, List.getD_append_right _ _ _ _ (by omega),
      Nat.add_sub_cancel_left]
  · rw [List.getElem?_append_right (by omega), hdlen, Nat.add_assoc _ (i * _), Nat.add_sub_cancel_left, heget hi hj]

end Sys2Proof.Machine

/-! RS_ASSEMBLE of a full buffer (`44_codeword.md` R206, R208): the data of the blocks, their error codewords, and the
codewords it stores. -/

namespace Sys2Proof.Machine

/-! ## The data of the blocks -/

theorem State.blockData_length (s : State) (blocks : List Block) (j : Nat) :
    (s.blockData blocks j).length = (blocks.getD j ⟨0, 0⟩).data := by
  rw [State.blockData, List.length_map, List.length_range]

/-- The bytes from `base` on, cut into the blocks' data. -/
theorem splitData_bytesAt (s : State) (blocks : List Block) (base : Nat) :
    splitData blocks (s.bytesAt base (blocks.map Block.data).sum) =
      (List.range blocks.length).map fun j =>
        s.bytesAt (base + ((blocks.take j).map Block.data).sum) (blocks.getD j ⟨0, 0⟩).data := by
  induction blocks generalizing base with
  | nil => rfl
  | cons b rest ih =>
    have hbytes : s.bytesAt base (b.data + (rest.map Block.data).sum) =
        s.bytesAt base b.data ++ s.bytesAt (base + b.data) (rest.map Block.data).sum := by
      simp only [State.bytesAt_eq, List.range_add, List.map_append, List.map_map, Function.comp_def, Nat.add_assoc]
    rw [splitData, List.map_cons, List.sum_cons, hbytes, List.take_left' (s.bytesAt_length _ _),
      List.drop_left' (s.bytesAt_length _ _), ih, List.length_cons, List.range_succ_eq_map, List.map_cons, List.map_map]
    simp [Function.comp_def, Nat.add_assoc]

theorem splitData_eq_blockData (s : State) (blocks : List Block) :
    splitData blocks (s.bytesAt Window.bb.base (capacity blocks / 8)) =
      (List.range blocks.length).map (s.blockData blocks) := by
  rw [capacity, Nat.mul_div_cancel_left _ (by decide), splitData_bytesAt]
  refine List.map_congr_left fun j _ => ?_
  rw [State.bytesAt_eq]
  rfl

/-! ## Error codewords -/

theorem zeros_append_stripZeros (p : List Byte) : ∃ z, p = List.replicate z 0 ++ stripZeros p := by
  rcases zeros_or_leading p with ⟨z, rfl⟩ | ⟨z, c, q, rfl, hc⟩
  · exact ⟨z, by rw [stripZeros_replicate, List.append_nil]⟩
  · exact ⟨z, by rw [stripZeros_eq z c q hc]⟩

theorem normBody_of_shift (p : List Byte) {shift : Nat} (h : 1 ≤ shift) :
    normBody p shift = stripZeros p ++ List.replicate shift 0 :=
  if_neg (by rw [List.length_append, List.length_replicate]; omega)

/-- The dividend of a block leads with a nonzero coefficient, or is shorter than the generator (R208). -/
theorem divisionDefined_of_block (data : List Byte) {e : Nat} (h1 : 1 ≤ e) (h254 : e ≤ 254) :
    DivisionDefined (normBody data e) (generatorPoly e) := by
  rcases zeros_or_leading data with ⟨z, rfl⟩ | ⟨z, c, q, rfl, hc⟩
  · refine .inl ?_
    rw [normBody_length, stripZeros_replicate, generatorPoly_length, List.length_nil]
    omega
  · rw [normBody_of_leading z q hc]
    exact .inr (.inr ⟨hc, generatorPoly_ne_zero (by omega)⟩)

theorem errorCodewords_defined (data : List Byte) {e : Nat} (h1 : 1 ≤ e) (h254 : e ≤ 254) :
    ∃ c, errorCodewords data e = .ok c ∧ ErrorCodewordsOf data e c := by
  have hgen := generator_eq (n := e) (by omega)
  have hlen := normBody_length data e
  obtain ⟨rem, hmod, hrun, hend⟩ := polyModLoop_eq (by rw [generatorPoly_length]; omega)
    ((normBody data e).length + 1) (s := normBody data e) (by omega) (.inr (by omega))
    (divisionDefined_of_block data h1 h254)
  have hrem : rem.length ≤ e := by
    rw [generatorPoly_length] at hend
    rcases hend with hlt | rfl
    · omega
    · exact h1
  refine ⟨List.replicate (e - rem.length) 0 ++ rem, ?_, generatorPoly e, normBody data e, rem, hgen, hrun, ?_, hrem,
    rfl⟩
  · simp only [errorCodewords, hgen, polyMod, hmod]
  · obtain ⟨z, hz⟩ := zeros_append_stripZeros data
    exact ⟨z, hz, normBody_of_shift data h1⟩

theorem ErrorCodewordsOf.length {data c : List Byte} {e : Nat} (h : ErrorCodewordsOf data e c) : c.length = e := by
  obtain ⟨_, _, rem, _, _, _, hle, rfl⟩ := h
  rw [List.length_append, List.length_replicate, Nat.sub_add_cancel hle]

/-- A block with error codewords, whose generator has no zero coefficient (`44_codeword.md` R208). -/
abbrev Block.Divisible (b : Block) : Prop := 1 ≤ b.error ∧ b.error ≤ 254

/-- Where no division meets a logarithm of 0, every block has its error codewords. -/
theorem allErrorCodewords_defined {blocks : List Block} {ds : List (List Byte)} (hlen : ds.length = blocks.length)
    (hb : ∀ b ∈ blocks, b.Divisible) :
    ∃ ecs, allErrorCodewords blocks ds = .ok ecs ∧ ecs.length = blocks.length ∧
      ∀ j, j < ecs.length → ErrorCodewordsOf (ds.getD j []) (blocks.getD j ⟨0, 0⟩).error (ecs.getD j []) := by
  induction blocks generalizing ds with
  | nil =>
    obtain rfl := List.length_eq_zero_iff.1 hlen
    exact ⟨[], rfl, rfl, fun j hj => absurd hj (Nat.not_lt_zero j)⟩
  | cons b bs ih =>
    obtain ⟨d, ds, rfl⟩ := List.exists_cons_of_length_eq_add_one hlen
    obtain ⟨⟨h1, h254⟩, hbs⟩ := List.forall_mem_cons.1 hb
    obtain ⟨c, hc, hcode⟩ := errorCodewords_defined d h1 h254
    obtain ⟨cs, hcs, hcslen, hcodes⟩ := ih (Nat.succ.inj hlen) hbs
    refine ⟨c :: cs, by rw [allErrorCodewords, hc, hcs], congrArg Nat.succ hcslen, fun j hj => ?_⟩
    cases j with
    | zero => exact hcode
    | succ j => exact hcodes j (Nat.lt_of_succ_lt_succ hj)

/-! ## The stored codewords -/

theorem map_length_blockData (s : State) (blocks : List Block) :
    ((List.range blocks.length).map (s.blockData blocks)).map List.length = blocks.map Block.data := by
  refine List.ext_getElem (by simp) fun j _ hj => ?_
  rw [List.length_map] at hj
  simp only [List.getElem_map, List.getElem_range, State.blockData_length, List.getD_eq_getElem _ _ hj]

theorem map_length_errorCodewords {blocks : List Block} {ds ecs : List (List Byte)} (hlen : ecs.length = blocks.length)
    (h : ∀ j, j < ecs.length → ErrorCodewordsOf (ds.getD j []) (blocks.getD j ⟨0, 0⟩).error (ecs.getD j [])) :
    ecs.map List.length = blocks.map Block.error := by
  refine List.ext_getElem (by simpa using hlen) fun j hj hj' => ?_
  rw [List.length_map] at hj hj'
  have hcode := (h j hj).length
  rw [List.getD_eq_getElem _ _ hj, List.getD_eq_getElem _ _ hj'] at hcode
  rw [List.getElem_map, List.getElem_map, hcode]

theorem data_add_error_sum {blocks : List Block} (h : ∀ b ∈ blocks, b.Divisible) :
    (blocks.map Block.data).sum + (blocks.map Block.error).sum = totalCodewords blocks := by
  rw [← List.sum_map_add, totalCodewords]
  refine congrArg List.sum (List.map_congr_left fun b hb => ?_)
  have herror := (h b hb).1
  rw [Block.error] at herror ⊢
  omega

/-- What CW holds after its codewords were replaced. -/
theorem State.codewords_storeCw (s : State) {bytes : List Byte} (h : bytes.length ≤ 4096) :
    (List.range bytes.length).map (s.storeCw bytes).codeword = bytes := by
  refine List.ext_getElem (by simp) fun i _ hi => ?_
  rw [List.getElem_map, List.getElem_range]
  exact State.byteAt_storeCw_at s bytes hi (hi.trans_le h)

/-- RS_ASSEMBLE of a full buffer completes where the blocks' codewords fit CW and no division meets a logarithm of 0
(`44_codeword.md` R208). -/
theorem exec_rsAssemble_of_full {s : State} {blocks : List Block}
    (hb : ecLookup s.params s.resVersion.toNat s.cfgLevel = .ok blocks) (hfull : s.bitLen.toNat = capacity blocks)
    (herror : ∀ b ∈ blocks, b.Divisible) (htotal : totalCodewords blocks ≤ 4096) :
    ∃ (t : State) (ecs : List (List Byte)), exec .rsAssemble s = .next t ∧
      t = { writeEcInfo s.completed blocks with
        mem := t.mem, draws := t.draws, cwLen := BitVec.ofNat 16 (totalCodewords blocks) } ∧
      ecs.length = blocks.length ∧
      (∀ j, j < ecs.length →
        ErrorCodewordsOf (s.blockData blocks j) (blocks.getD j ⟨0, 0⟩).error (ecs.getD j [])) ∧
      (List.range (totalCodewords blocks)).map t.codeword =
        interleave ((List.range ecs.length).map (s.blockData blocks)) ecs ∧
      s.sameOutside t 0x006000 0x007000 := by
  obtain ⟨ecs, hecs, hlen, hcodes⟩ := allErrorCodewords_defined
    (ds := (List.range blocks.length).map (s.blockData blocks)) (by simp) herror
  have hrule := ruleRsAssemble_of_full hb hfull (by rw [splitData_eq_blockData, hecs])
  rw [splitData_eq_blockData] at hrule
  have hcount : (interleave ((List.range blocks.length).map (s.blockData blocks)) ecs).length =
      totalCodewords blocks := by
    rw [interleave, List.length_append, interleaveLists_length, interleaveLists_length, map_length_blockData,
      map_length_errorCodewords hlen hcodes, data_add_error_sum herror]
  refine ⟨_, ecs, complete_ok hrule, rfl, hlen, fun j hj => ?_, ?_, Effect.sameOutside (.assemble blocks _ hb)⟩
  · have hcode := hcodes j hj
    rwa [List.getD_eq_getElem _ _ (by simpa [hlen] using hj), List.getElem_map, List.getElem_range] at hcode
  · have hcw := s.codewords_storeCw (hcount.trans_le htotal)
    rw [hcount] at hcw
    rw [hlen]
    exact hcw

/-! ## The default EC_TABLE -/

/-- The numbers of error codewords of the default EC_TABLE (`44_codeword.md` R208). -/
theorem ecTableRows_error : ∀ row ∈ ecTableRows, ∀ lvl : BitVec 2, ∀ g ∈ row.groups lvl,
    1 ≤ g.total - g.data ∧ g.total - g.data ≤ 254 := by decide

theorem blocks_divisible {v : Nat} (h1 : 1 ≤ v) (h40 : v ≤ 40) (lvl : BitVec 2) :
    ∀ b ∈ expandGroups (Params.default.ecGroups v lvl), b.Divisible := by
  intro b hb
  obtain ⟨g, hg, hbg⟩ := List.mem_flatMap.1 hb
  obtain rfl := List.eq_of_mem_replicate hbg
  have hlt : v - 1 < ecTableRows.length := by
    change v - 1 < 40
    omega
  have hrow : Params.default.ecGroups v lvl = ecTableRows[v - 1].groups lvl :=
    congrArg (EcRow.groups · lvl) (List.getD_eq_getElem _ _ hlt)
  exact ecTableRows_error _ (List.getElem_mem hlt) lvl g (hrow ▸ hg)

/-- Settles O24: every block of the default EC_TABLE has its error codewords, and the row's sums are its groups'. -/
theorem rsAssembleResult : Obligations.RsAssembleResult := by
  intro s v hparams h1 h40 hv hlen
  subst hv
  have hb := ecLookup_of_version h1 h40 s.params s.cfgLevel
  have h := exec_rsAssemble_of_full hb (hlen.trans (capacity_expandGroups _).symm)
    (hparams ▸ blocks_divisible h1 h40 s.cfgLevel) (totalCodewords_le (hparams ▸ default_params_fit) hb)
  rwa [writeEcInfo_expandGroups, totalCodewords_expandGroups, expandGroups_length] at h

end Sys2Proof.Machine

/-! The checks of the matrix commands, and MX_READ (`45_matrix.md` R235, R245, R255, R262, R266, R268). -/

namespace Sys2Proof.Machine

/-! ## A template, then a mask index -/

theorem checkTrial_of_no_template {s : State} (h : s.tplVer = 0) (m : Nat) : checkTrial s m = .error .hwNoTemplate :=
  if_pos h

theorem checkTrial_of_mask {s : State} (h : s.tplVer ≠ 0) {m : Nat} (hm : 7 < m) : checkTrial s m = .error .rangeMask := by
  rw [checkTrial, if_neg h, if_pos hm]

section
variable {s : State} {m : Nat} {e : ErrCode} (h : checkTrial s m = .error e)
include h

theorem exec_mxTrial_of_check (test : Bool) : exec (.mxTrial m test) s = .next (s.raise e) :=
  complete_error (by rw [ruleMxTrial, h])

theorem exec_mxScore_of_check : exec (.mxScore m) s = .next (s.raise e) :=
  complete_error (by rw [ruleMxScore, h])

end

theorem exec_mxEval_of_no_template {s : State} (h : s.tplVer = 0) : exec .mxEval s = .next (s.raise .hwNoTemplate) :=
  complete_error (if_pos h)

/-- MX_COMMIT checks the mask it takes: BEST where USE_BEST is set. -/
theorem exec_mxCommit_of_check {s : State} {mask m : Nat} {useBest : Bool} {e : ErrCode}
    (hm : m = if useBest then s.best.toNat else mask) (h : checkTrial s m = .error e) :
    exec (.mxCommit mask useBest) s = .next (s.raise e) := by
  subst hm
  exact complete_error (by rw [ruleMxCommit, h])

/-- Settles O37: the check of each command, which asks for the template before the mask. -/
theorem mxErrors : Obligations.MxErrors := by
  refine ⟨fun s m b h => ?_, fun s m b h hm => ?_⟩
  · have hc := checkTrial_of_no_template h
    exact ⟨exec_mxTrial_of_check (hc m) b, exec_mxScore_of_check (hc m), exec_mxEval_of_no_template h,
      exec_mxCommit_of_check rfl (hc _)⟩
  · have hc := checkTrial_of_mask h hm
    exact ⟨exec_mxTrial_of_check hc b, exec_mxScore_of_check hc, exec_mxCommit_of_check (useBest := false) rfl hc⟩

/-! ## MX_READ -/

/-- The rows and columns MX_READ takes: none while FINALVER is 0. -/
def State.finalSize (s : State) : Int := if s.finalVer = 0 then 0 else 4 * s.finalVer.toNat + 17

theorem ruleMxRead_eq (s : State) :
    ruleMxRead s =
      if s.arg0.toInt < 0 ∨ s.finalSize ≤ s.arg0.toInt ∨ s.arg1.toInt < 0 ∨ s.finalSize ≤ s.arg1.toInt then
        .error .rangeCoord
      else .ok { s with result := if s.cell .final s.arg0.toInt.toNat s.arg1.toInt.toNat = 0x02 then 1 else 0 } := by
  rw [State.finalSize]
  rfl

/-- Settles O36: the coordinates inside the matrix are the naturals below its side. -/
theorem mxReadResult : Obligations.MxReadResult := by
  refine ⟨fun s r c h0 hr hc hrn hcn => ?_, fun s h => ?_, illegalWhere_of_rows (by simp [opcodeRows])⟩
  · have hrule : ruleMxRead s = .ok { s with result := if s.cell .final r c = 0x02 then 1 else 0 } := by
      rw [ruleMxRead_eq, State.finalSize, if_neg h0, hr, hc, if_neg (by omega), Int.toNat_natCast, Int.toNat_natCast]
    exact complete_ok hrule
  · refine complete_error ((ruleMxRead_eq s).trans (if_pos ?_))
    by_cases h0 : s.finalVer = 0
    · rw [State.finalSize, if_pos h0]
      omega
    · rw [State.finalSize, if_neg h0]
      exact h.resolve_left h0

end Sys2Proof.Machine

/-! The penalties of R250, which the scorers count along a matrix's rows and columns, as sums over the places of its
cells. -/

namespace Sys2Proof.Machine

/-! ## Sums -/

theorem sumBelow_succ (n : Nat) (f : Nat → Nat) : sumBelow (n + 1) f = f 0 + sumBelow n fun i => f (i + 1) := by
  simp [sumBelow, List.range_succ_eq_map, Function.comp_def]

theorem sumBelow_congr {n : Nat} {f g : Nat → Nat} (h : ∀ i, i < n → f i = g i) : sumBelow n f = sumBelow n g :=
  congrArg List.sum (List.map_congr_left fun i hi => h i (List.mem_range.1 hi))

/-- A line of `n + 1` cells is its first cell and the line of the others. -/
theorem map_range_succ {α : Type} (n : Nat) (x : Nat → α) :
    (List.range (n + 1)).map x = x 0 :: (List.range n).map fun i => x (i + 1) := by
  simp [List.range_succ_eq_map, Function.comp_def]

/-! ## Rule (a) -/

/-- What a maximal run of length `len` adds. -/
def runScore (len : Nat) : Nat := if 5 ≤ len then 3 + (len - 5) else 0

theorem runPenalty_eq (l : List Bool) : runPenalty l = ((runLengths l).map runScore).sum := rfl

/-- The length of the first run of colour `c`. -/
def leadingRun (c : Bool) (l : List Bool) : Nat := (l.takeWhile (· = c)).length

theorem leadingRun_cons (c x : Bool) (l : List Bool) :
    leadingRun c (x :: l) = if x = c then leadingRun c l + 1 else 0 := by
  rw [leadingRun, List.takeWhile_cons]
  by_cases h : x = c <;> simp [h, leadingRun]

/-- The first run counted takes in the cells of its colour that come next. -/
theorem runsFrom_eq (c : Bool) (k : Nat) (l : List Bool) :
    runsFrom c k l = (k + leadingRun c l) :: runLengths (l.dropWhile (· = c)) := by
  induction l generalizing k with
  | nil => rfl
  | cons x rest ih =>
    rw [runsFrom, leadingRun_cons, List.dropWhile_cons]
    by_cases hx : x = c
    · rw [if_pos hx, if_pos hx, if_pos (by simpa using hx), ih, Nat.add_assoc, Nat.add_comm 1]
    · rw [if_neg hx, if_neg hx, if_neg (by simpa using hx)]
      rfl

/-- A line's penalty is that of its leading cells of colour `c`, a run where there are any, and of the rest. -/
theorem runPenalty_split (c : Bool) (l : List Bool) :
    runPenalty l = runScore (leadingRun c l) + runPenalty (l.dropWhile (· = c)) := by
  cases l with
  | nil => rfl
  | cons x rest =>
    by_cases hx : x = c
    · rw [runPenalty_eq, runLengths, runsFrom_eq, leadingRun_cons, if_pos hx, List.dropWhile_cons_of_pos (by simpa using hx),
        hx, Nat.add_comm 1]
      rfl
    · rw [leadingRun_cons, if_neg hx, List.dropWhile_cons_of_neg (by simpa using hx)]
      exact (Nat.zero_add _).symm

/-- A cell before a line lengthens the run of its colour that leads the line. -/
theorem runPenalty_cons (c : Bool) (l : List Bool) :
    runPenalty (c :: l) + runScore (leadingRun c l) = runPenalty l + runScore (leadingRun c l + 1) := by
  have hcons : runPenalty (c :: l) = runScore (leadingRun c l + 1) + runPenalty (l.dropWhile (· = c)) := by
    rw [runPenalty_split c (c :: l), leadingRun_cons, if_pos rfl, List.dropWhile_cons_of_pos (by simp)]
  have hsplit := runPenalty_split c l
  omega

/-- A run of colour `c` leads a line as far as its cells have the colour. -/
theorem le_leadingRun_iff (c : Bool) (n k : Nat) (x : Nat → Bool) :
    k ≤ leadingRun c ((List.range n).map x) ↔ k ≤ n ∧ ∀ j, j < k → x j = c := by
  induction n generalizing k x with
  | zero =>
    simp only [List.range_zero, List.map_nil, leadingRun, List.takeWhile_nil, List.length_nil]
    exact ⟨fun h => ⟨h, fun j hj => absurd hj (by omega)⟩, fun h => h.1⟩
  | succ n ih =>
    cases k with
    | zero => simp
    | succ k =>
      rw [map_range_succ, leadingRun_cons, ← Nat.and_forall_add_one]
      by_cases h0 : x 0 = c
      · rw [if_pos h0, Nat.add_le_add_iff_right, ih]
        simp [h0]
      · rw [if_neg h0]
        simp [h0]

theorem fiveFrom_zero (n : Nat) (x : Nat → Bool) :
    fiveFrom n x 0 = decide (5 ≤ leadingRun (x 0) ((List.range n).map x)) := by
  rw [fiveFrom, Bool.eq_iff_iff, decide_eq_true_iff, le_leadingRun_iff]
  simp

theorem fiveFrom_succ (n : Nat) (x : Nat → Bool) (i : Nat) :
    fiveFrom (n + 1) x (i + 1) = fiveFrom n (fun j => x (j + 1)) i := by
  have hend : (i + 1 + 5 ≤ n + 1) = (i + 5 ≤ n) := by rw [Nat.add_right_comm, Nat.add_le_add_iff_right]
  simp only [fiveFrom, hend, Nat.add_right_comm i 1]

/-- What the place `i` of a line scores under rule (a). -/
def placeScore (n : Nat) (x : Nat → Bool) (i : Nat) : Nat :=
  if fiveFrom n x i then (if i = 0 ∨ x (i - 1) ≠ x i then 3 else 1) else 0

theorem linePenaltyA_eq (n : Nat) (x : Nat → Bool) : linePenaltyA n x = sumBelow n (placeScore n x) := rfl

/-- Behind a cell the places of a line score as before, but the first, where a run no longer begins if it has the
cell's colour. -/
theorem placeScore_succ (n : Nat) (x : Nat → Bool) {i : Nat} (hi : i ≠ 0) :
    placeScore (n + 1) x (i + 1) = placeScore n (fun j => x (j + 1)) i := by
  obtain ⟨i, rfl⟩ := Nat.exists_eq_succ_of_ne_zero hi
  simp [placeScore, fiveFrom_succ]

/-- `runPenalty_cons` for the sum over places. -/
theorem linePenaltyA_succ (n : Nat) (x : Nat → Bool) :
    linePenaltyA (n + 1) x + runScore (leadingRun (x 0) ((List.range n).map fun i => x (i + 1))) =
      linePenaltyA n (fun i => x (i + 1)) +
        runScore (leadingRun (x 0) ((List.range n).map fun i => x (i + 1)) + 1) := by
  have hfirst : placeScore (n + 1) x 0 =
      if 4 ≤ leadingRun (x 0) ((List.range n).map fun i => x (i + 1)) then 3 else 0 := by
    simp [placeScore, fiveFrom_zero, map_range_succ, leadingRun_cons]
  rw [linePenaltyA_eq, linePenaltyA_eq, sumBelow_succ, hfirst]
  cases n with
  | zero => rfl
  | succ m =>
    have hrest : sumBelow m (fun i => placeScore (m + 1 + 1) x (i + 1 + 1)) =
        sumBelow m (fun i => placeScore (m + 1) (fun j => x (j + 1)) (i + 1)) :=
      sumBelow_congr fun i _ => placeScore_succ _ _ (Nat.succ_ne_zero i)
    rw [sumBelow_succ, sumBelow_succ, hrest]
    simp only [placeScore, fiveFrom_succ, fiveFrom_zero, runScore, decide_eq_true_iff]
    by_cases hx : x 1 = x 0
    · simp only [Nat.zero_add, Nat.add_sub_cancel, hx, ne_eq, not_true_eq_false, Nat.one_ne_zero, or_self, if_false,
        true_or, if_true]
      split_ifs <;> omega
    · have hrun : leadingRun (x 0) ((List.range (m + 1)).map fun i => x (i + 1)) = 0 := by
        rw [map_range_succ, leadingRun_cons, if_neg hx]
      have hx' : x 0 ≠ x 1 := Ne.symm hx
      simp [hrun, hx']

/-- Rule (a) on a line: the maximal runs score what its places do. -/
theorem runPenalty_line (n : Nat) (x : Nat → Bool) : runPenalty ((List.range n).map x) = linePenaltyA n x := by
  induction n generalizing x with
  | zero => rfl
  | succ n ih =>
    have hruns := runPenalty_cons (x 0) ((List.range n).map fun i => x (i + 1))
    have hplaces := linePenaltyA_succ n x
    rw [← map_range_succ, ih] at hruns
    omega

/-! ## Rules (b) to (d) -/

theorem blockPenalty_lines (n : Nat) (x y : Nat → Bool) :
    blockPenalty ((List.range n).map x) ((List.range n).map y) =
      sumBelow (n - 1) fun c => if x (c + 1) = x c ∧ y c = x c ∧ y (c + 1) = x c then 3 else 0 := by
  induction n generalizing x y with
  | zero => rfl
  | succ n ih =>
    cases n with
    | zero => rfl
    | succ n =>
      have hblock : (x 0 = x 1 ∧ y 0 = y 1 ∧ x 0 = y 0) ↔ (x 1 = x 0 ∧ y 0 = x 0 ∧ y 1 = x 0) := by
        constructor <;> rintro ⟨h1, h2, h3⟩ <;> simp_all
      have hrest := ih (fun i => x (i + 1)) fun i => y (i + 1)
      simp only [map_range_succ] at hrest ⊢
      rw [blockPenalty, hrest, Nat.add_sub_cancel, Nat.add_sub_cancel, sumBelow_succ]
      simp only [hblock]

/-- Rule (b) pairs each row with the next. -/
theorem blocksPenalty_rows (n : Nat) (row : Nat → List Bool) :
    blocksPenalty ((List.range n).map row) = sumBelow (n - 1) fun r => blockPenalty (row r) (row (r + 1)) := by
  induction n generalizing row with
  | zero => rfl
  | succ n ih =>
    cases n with
    | zero => rfl
    | succ n =>
      have hrest := ih fun r => row (r + 1)
      simp only [map_range_succ] at hrest ⊢
      rw [blocksPenalty, hrest, Nat.add_sub_cancel, Nat.add_sub_cancel, sumBelow_succ]

/-- What the window of 11 cells at the place `i` of a line scores under rule (c). -/
def windowScore (n : Nat) (x : Nat → Bool) (i : Nat) : Nat :=
  if i + 11 ≤ n then
    if ((List.range 11).map fun j => x (i + j)) = finderThenLight ∨
      ((List.range 11).map fun j => x (i + j)) = lightThenFinder then 40 else 0
  else 0

theorem linePenaltyC_eq (n : Nat) (x : Nat → Bool) : linePenaltyC n x = sumBelow n (windowScore n x) := rfl

theorem windowScore_succ (n : Nat) (x : Nat → Bool) (i : Nat) :
    windowScore (n + 1) x (i + 1) = windowScore n (fun j => x (j + 1)) i := by
  simp only [windowScore, Nat.add_right_comm i 1, Nat.add_le_add_iff_right]

/-- Fewer than 11 cells are neither of the patterns. -/
theorem windowScore_zero (n : Nat) (x : Nat → Bool) :
    windowScore n x 0 = if ((List.range n).map x).take 11 = finderThenLight ∨
      ((List.range n).map x).take 11 = lightThenFinder then 40 else 0 := by
  rw [windowScore, ← List.map_take, List.take_range]
  simp only [Nat.zero_add]
  by_cases hn : 11 ≤ n
  · rw [if_pos hn, Nat.min_eq_left hn]
  · rw [if_neg hn, Nat.min_eq_right (by omega), if_neg]
    rintro (h | h) <;> exact absurd (congrArg List.length h) (by simp [finderThenLight, lightThenFinder]; omega)

theorem finderPenalty_line (n : Nat) (x : Nat → Bool) : finderPenalty ((List.range n).map x) = linePenaltyC n x := by
  induction n generalizing x with
  | zero => rfl
  | succ n ih =>
    rw [linePenaltyC_eq, sumBelow_succ, sumBelow_congr fun i _ => windowScore_succ n x i, ← linePenaltyC_eq,
      windowScore_zero, ← ih, map_range_succ, finderPenalty]

theorem count_true_line (n : Nat) (x : Nat → Bool) :
    ((List.range n).map x).count true = sumBelow n fun c => (x c).toNat := by
  induction n generalizing x with
  | zero => rfl
  | succ n ih =>
    rw [map_range_succ, sumBelow_succ, List.count_cons, ih, Nat.add_comm]
    cases x 0 <;> rfl

theorem darkPenalty_eq (d n : Nat) :
    darkPenalty d n =
      (if 50 * (n * n) ≤ 100 * d then 100 * d - 50 * (n * n) else 50 * (n * n) - 100 * d) / (5 * (n * n)) * 10 := by
  have habs : ((100 * d : Int) - 50 * (n * n)).natAbs =
      if 50 * (n * n) ≤ 100 * d then 100 * d - 50 * (n * n) else 50 * (n * n) - 100 * d := by
    generalize hq : n * n = q
    have hq' : (n : Int) * n = q := by rw [← hq]; rfl
    rw [hq']
    split <;> omega
  rw [darkPenalty, habs]

/-! ## The score -/

/-- The scorers on the rows and columns of a table of colours are R250's sums over its cells. -/
theorem score_eq_scoreOf {n : Nat} {g : Grid} {dark : Nat → Nat → Bool}
    (h : colours g = (List.range n).map fun r => (List.range n).map (dark r)) : score n g = scoreOf n dark := by
  have hcolumns : columnsOf n (colours g) = (List.range n).map fun c => (List.range n).map fun r => dark r c := by
    rw [columnsOf, h]
    refine List.map_congr_left fun c hc => ?_
    rw [List.map_map]
    refine List.map_congr_left fun r _ => ?_
    simp [List.getD_eq_getElem?_getD, List.mem_range.1 hc]
  have hcount : darkCount (colours g) = sumBelow n fun r => sumBelow n fun c => (dark r c).toNat := by
    rw [h, darkCount, List.map_map]
    exact sumBelow_congr fun r _ => count_true_line n (dark r)
  have hlines : ∀ (f : List Bool → Nat) (p : (Nat → Bool) → Nat), (∀ x, f ((List.range n).map x) = p x) →
      ((colours g ++ columnsOf n (colours g)).map f).sum =
        (sumBelow n fun r => p (dark r)) + sumBelow n fun c => p fun r => dark r c := by
    intro f p hf
    rw [List.map_append, List.sum_append, hcolumns, h, List.map_map, List.map_map]
    exact congrArg₂ _ (sumBelow_congr fun r _ => hf (dark r)) (sumBelow_congr fun c _ => hf fun r => dark r c)
  have hblocks : blocksPenalty (colours g) = sumBelow (n - 1) fun r => sumBelow (n - 1) fun c =>
      if dark r (c + 1) = dark r c ∧ dark (r + 1) c = dark r c ∧ dark (r + 1) (c + 1) = dark r c then 3 else 0 := by
    rw [h, blocksPenalty_rows]
    exact sumBelow_congr fun r _ => blockPenalty_lines n (dark r) (dark (r + 1))
  simp only [score, scoreOf]
  rw [hlines runPenalty _ (runPenalty_line n), hlines finderPenalty _ (finderPenalty_line n), hblocks, hcount,
    darkPenalty_eq]
  omega

/-- The colours of the matrix a window holds. -/
theorem colours_matrixAt (s : State) (w : Window) {n : Nat} (hn : n ≤ 177) :
    colours (s.matrixAt w n) =
      (List.range n).map fun r => (List.range n).map fun c => decide (s.cell w r c = 0x02) := by
  rw [State.matrixAt_eq s w hn, colours, List.map_map]
  refine List.map_congr_left fun r _ => ?_
  rw [Function.comp_apply, List.map_map]
  rfl

theorem setIfInBounds_eq_set {α : Type} {n i : Nat} (v : Vector α n) (x : α) (h : i < n) :
    v.setIfInBounds i x = v.set i x h := by
  ext j hj
  rw [Vector.getElem_setIfInBounds, Vector.getElem_set]

/-- Settles O31: the scorers and R250's sums over the cells agree on the matrix TRIAL[m] holds. -/
theorem mxScoreResult : Obligations.MxScoreResult := by
  intro s m hm h0 h40 p
  have hn : moduleCount s.tplVer.toNat ≤ 177 := by rw [moduleCount]; omega
  have hscore : score (moduleCount s.tplVer.toNat) (s.matrixAt (.trial m) (moduleCount s.tplVer.toNat)) = p :=
    score_eq_scoreOf (colours_matrixAt s (.trial m) hn)
  have hrule : ruleMxScore m s =
      .ok { s with pen := s.pen.set m (BitVec.ofNat 32 p), result := BitVec.ofNat 32 p } := by
    rw [ruleMxScore, checkTrial_eq_ok.2 ⟨h0, Nat.le_of_lt_succ hm⟩]
    simp only [hscore, setIfInBounds_eq_set _ _ hm]
  exact complete_ok hrule

end Sys2Proof.Machine

/-! The data mapping (`45_matrix.md` R242, R243): the order of the sweep, the mask predicates, and where each codeword
bit goes. -/

namespace Sys2Proof.Machine

/-! ## The column pairs -/

/-- From column 6 on, the pairs start at columns 5, 3 and 1. -/
theorem pairColumns_six (fuel : Nat) : pairColumns (fuel + 3) 6 = [5, 3, 1] := by
  cases fuel <;> rfl

/-- From an even right edge the pairs start at every even column above 6, then at 5, 3 and 1. -/
theorem pairColumns_eq (fuel j : Nat) :
    pairColumns (fuel + j + 3) (2 * j + 6) = ((List.range j).map fun p => 2 * j + 6 - 2 * p) ++ [5, 3, 1] := by
  induction j with
  | zero => exact pairColumns_six fuel
  | succ j ih =>
    have hstep : pairColumns (fuel + (j + 1) + 3) (2 * (j + 1) + 6) =
        (2 * (j + 1) + 6) :: pairColumns (fuel + j + 3) (2 * j + 6) := by
      rw [show fuel + (j + 1) + 3 = fuel + j + 3 + 1 by omega, pairColumns, if_neg (by omega)]
      simp only [if_neg (show ¬2 * (j + 1) + 6 = 6 by omega)]
      rfl
    rw [hstep, ih, map_range_succ]
    simp only [List.cons_append, Nat.mul_zero, Nat.sub_zero]
    refine congrArg _ (congrArg (· ++ _) (List.map_congr_left fun p _ => ?_))
    omega

/-- The right column of the pair `p` of a symbol with `n` columns (`45_matrix.md` R242). -/
def rightColumn (n p : Nat) : Nat := if 6 < n - 1 - 2 * p then n - 1 - 2 * p else n - 2 - 2 * p

theorem pairColumns_symbol (v : Nat) :
    pairColumns (4 * v + 17) (4 * v + 17 - 1) = (List.range (2 * v + 8)).map (rightColumn (4 * v + 17)) := by
  have hpairs := pairColumns_eq (2 * v + 9) (2 * v + 5)
  rw [show 2 * v + 9 + (2 * v + 5) + 3 = 4 * v + 17 by omega, show 2 * (2 * v + 5) + 6 = 4 * v + 17 - 1 by omega] at hpairs
  rw [hpairs, show 2 * v + 8 = 2 * v + 5 + 3 by omega, List.range_add (n := 2 * v + 5), List.map_append, List.map_map]
  refine congrArg₂ _ (List.map_congr_left fun p hp => ?_) ?_
  · have hp := List.mem_range.1 hp
    rw [rightColumn, if_pos (by omega)]
  · have hlast : ∀ i ∈ List.range 3, rightColumn (4 * v + 17) (2 * v + 5 + i) = 5 - 2 * i := fun i hi => by
      have hi := List.mem_range.1 hi
      rw [rightColumn, if_neg (by omega)]
      omega
    exact (List.map_congr_left hlast).symm

/-! ## The sweep -/

/-- The cells of the pair `p` in the order of the sweep: two for each row. -/
def pairCells (n p : Nat) : List (Nat × Nat) :=
  (if p % 2 = 0 then (List.range n).reverse else List.range n).flatMap fun r =>
    [(r, rightColumn n p), (r, rightColumn n p - 1)]

theorem sweep_symbol (v : Nat) :
    sweep (4 * v + 17) = (List.range (2 * v + 8)).flatMap (pairCells (4 * v + 17)) := by
  have hzip : ((List.range (2 * v + 8)).map (rightColumn (4 * v + 17))).zipIdx =
      (List.range (2 * v + 8)).map fun p => (rightColumn (4 * v + 17) p, p) := by
    refine List.ext_getElem (by simp) fun p hp _ => ?_
    simp
  rw [sweep, pairColumns_symbol, hzip, List.flatMap_map]
  rfl

/-- Pieces of `m` entries each, one after another: where the entry `i` of piece `p` stands. -/
theorem getElem?_flatMap_of_length {α β : Type} {m : Nat} {f : α → List β} {l : List α} (h : ∀ x ∈ l, (f x).length = m)
    {p i : Nat} (hi : i < m) : (l.flatMap f)[m * p + i]? = l[p]?.bind fun x => (f x)[i]? := by
  induction l generalizing p with
  | nil => rfl
  | cons x rest ih =>
    obtain ⟨hx, hrest⟩ := List.forall_mem_cons.1 h
    rw [List.flatMap_cons]
    cases p with
    | zero => simp [List.getElem?_append_left (hx ▸ hi : i < (f x).length)]
    | succ p =>
      rw [Nat.mul_succ, List.getElem?_append_right (by omega), hx, Nat.add_right_comm, Nat.add_sub_cancel, ih hrest]
      rfl

theorem pairCells_length (n p : Nat) : (pairCells n p).length = 2 * n := by
  rw [pairCells]
  split <;> simp [List.length_flatMap, Nat.mul_comm]

theorem pairCells_getElem? {n p k b : Nat} (hk : k < n) (hb : b < 2) :
    (pairCells n p)[2 * k + b]? = some (if p % 2 = 0 then n - 1 - k else k, rightColumn n p - b) := by
  rw [pairCells, getElem?_flatMap_of_length (m := 2) (fun _ _ => rfl) hb]
  have hrow : (if p % 2 = 0 then (List.range n).reverse else List.range n)[k]? =
      some (if p % 2 = 0 then n - 1 - k else k) := by
    split
    · rw [List.getElem?_reverse (by simpa using hk), List.length_range, List.getElem?_range (by omega)]
    · exact List.getElem?_range hk
  rw [hrow]
  interval_cases b <;> rfl

theorem sweep_getElem? {v p k b : Nat} (hp : p < 2 * v + 8) (hk : k < 4 * v + 17) (hb : b < 2) :
    (sweep (4 * v + 17))[2 * (4 * v + 17) * p + (2 * k + b)]? =
      some (if p % 2 = 0 then 4 * v + 17 - 1 - k else k, rightColumn (4 * v + 17) p - b) := by
  rw [sweep_symbol, getElem?_flatMap_of_length (fun _ _ => pairCells_length _ _) (by omega), List.getElem?_range hp]
  exact pairCells_getElem? hk hb

theorem sweep_length (v : Nat) : (sweep (4 * v + 17)).length = (4 * v + 17) * (4 * v + 16) := by
  have hsum : ((List.range (2 * v + 8)).map fun p => (pairCells (4 * v + 17) p).length).sum =
      (2 * v + 8) * (2 * (4 * v + 17)) := by
    simp only [pairCells_length]
    simp
  rw [sweep_symbol, List.length_flatMap, hsum]
  ring

theorem mem_sweep_iff {v r c : Nat} :
    (r, c) ∈ sweep (4 * v + 17) ↔ r < 4 * v + 17 ∧ c < 4 * v + 17 ∧ c ≠ 6 := by
  refine ⟨fun h => ?_, fun ⟨hr, hc, h6⟩ => mem_sweep (v := v) hr hc h6⟩
  rw [sweep_symbol] at h
  obtain ⟨p, hp, h⟩ := List.mem_flatMap.1 h
  obtain ⟨row, hrow, h⟩ := List.mem_flatMap.1 h
  have hp := List.mem_range.1 hp
  have hrow : row < 4 * v + 17 := by split at hrow <;> simpa using hrow
  have hcol : r = row ∧ (c = rightColumn (4 * v + 17) p ∨ c = rightColumn (4 * v + 17) p - 1) := by
    simp at h
    omega
  obtain ⟨rfl, hcol⟩ := hcol
  rw [rightColumn] at hcol
  split at hcol <;> omega

/-- The sweep is as long as it has different cells. -/
theorem sweep_nodup (v : Nat) : (sweep (4 * v + 17)).Nodup := by
  have hcells : (sweep (4 * v + 17)).toFinset =
      Finset.range (4 * v + 17) ×ˢ (Finset.range (4 * v + 17)).erase 6 := by
    ext ⟨r, c⟩
    rw [List.mem_toFinset, mem_sweep_iff, Finset.mem_product, Finset.mem_erase, Finset.mem_range, Finset.mem_range]
    tauto
  have hcard : (sweep (4 * v + 17)).toFinset.card = (sweep (4 * v + 17)).length := by
    rw [hcells, Finset.card_product, Finset.card_erase_of_mem (Finset.mem_range.2 (by omega)), Finset.card_range,
      sweep_length]
    rfl
  exact Multiset.coe_nodup.1 (Multiset.toFinset_card_eq_card_iff_nodup.1 hcard)

/-! ## Masks -/

/-- The mask predicates are the rows of R243's table. -/
theorem maskBit_iff {m : Nat} (hm : m < 8) (r c : Nat) :
    maskBit m r c = true ↔
      [(r + c) % 2, r % 2, c % 3, (r + c) % 3, (r / 2 + c / 3) % 2, r * c % 2 + r * c % 3,
        (r * c % 2 + r * c % 3) % 2, (r * c % 3 + (r + c) % 2) % 2][m]? = some 0 := by
  interval_cases m <;> simp [maskBit]

/-! ## Placing the data -/

section
variable {n : Nat} {order : List (Nat × Nat)}

/-- A cell that is not visited, or not UNSET, stays. -/
theorem placeData_get_of_not_visited (m : Nat) (bits : List Bool) {g : Grid} {r c : Nat}
    (h : (r, c) ∉ order ∨ g.get r c ≠ cellUnset) : (placeData m order bits g).get r c = g.get r c := by
  induction order generalizing bits g with
  | nil => rfl
  | cons x rest ih =>
    obtain ⟨r0, c0⟩ := x
    rw [placeData]
    split
    · rename_i h0
      have hne : r ≠ r0 ∨ c ≠ c0 := by
        by_contra hne
        obtain ⟨rfl, rfl⟩ : r = r0 ∧ c = c0 := by omega
        exact h.elim (fun h => h List.mem_cons_self) fun h => h h0
      have hget := g.get_set_other (cellOf (bits.headD false ^^ maskBit m r0 c0)) hne
      rw [ih bits.tail (by rw [hget]; exact h.imp_left fun h hm => h (List.mem_cons_of_mem _ hm)), hget]
    · exact ih bits (h.imp_left fun h hm => h (List.mem_cons_of_mem _ hm))

/-- The UNSET cells of an order without repeats, in order. -/
abbrev unsetCells (g : Grid) (order : List (Nat × Nat)) : List (Nat × Nat) :=
  order.filter fun x => g.get x.1 x.2 = cellUnset

theorem unsetCells_set {g : Grid} {r c : Nat} (h : (r, c) ∉ order) (b : Byte) :
    unsetCells (g.set r c b) order = unsetCells g order := by
  refine List.filter_congr fun x hx => ?_
  rw [g.get_set_other b]
  by_contra hne
  obtain ⟨rfl, rfl⟩ : x.1 = r ∧ x.2 = c := by omega
  exact h hx

/-- The k-th UNSET cell takes codeword bit k under the mask (`45_matrix.md` R242). -/
theorem placeData_get_of_unset (m : Nat) (bits : List Bool) {g : Grid} (hg : g.isSquare n) (hnodup : order.Nodup)
    (hin : ∀ x ∈ order, x.1 < n ∧ x.2 < n) {k r c : Nat} (hk : (unsetCells g order)[k]? = some (r, c)) :
    (placeData m order bits g).get r c = cellOf (bits.getD k false ^^ maskBit m r c) := by
  induction order generalizing bits g k with
  | nil => cases hk
  | cons x rest ih =>
    obtain ⟨r0, c0⟩ := x
    obtain ⟨hx, hnodup⟩ := List.nodup_cons.1 hnodup
    obtain ⟨⟨hr0, hc0⟩, hin⟩ := List.forall_mem_cons.1 hin
    rw [placeData]
    by_cases h0 : g.get r0 c0 = cellUnset
    · rw [if_pos h0]
      rw [unsetCells, List.filter_cons_of_pos (by simpa using h0)] at hk
      cases k with
      | zero =>
        obtain ⟨rfl, rfl⟩ : r0 = r ∧ c0 = c := by simpa using hk
        rw [placeData_get_of_not_visited m _ (.inl hx), Grid.get_set_same hg _ hr0 hc0]
        cases bits <;> rfl
      | succ k =>
        rw [List.getElem?_cons_succ] at hk
        rw [ih bits.tail (Grid.isSquare_set hg r0 c0 _) hnodup hin (by rw [unsetCells_set hx]; exact hk)]
        cases bits <;> rfl
    · rw [if_neg h0]
      rw [unsetCells, List.filter_cons_of_neg (by simpa using h0)] at hk
      exact ih bits hg hnodup hin hk

end

/-- Settles O29: the sweep as its pairs one after another, and placing the data along any order. -/
theorem dataMapping : Obligations.DataMapping := by
  refine ⟨fun v p k b _ _ hp hk hb => ?_, fun v _ _ => ⟨sweep_length v, sweep_nodup v, fun r c => mem_sweep_iff⟩,
    fun m r c hm => maskBit_iff hm r c, fun n m order bits g hg hnodup hin => ⟨fun k r c hk => ?_, fun r c _ _ h => ?_⟩⟩
  · exact (congrArg _ (Nat.add_assoc _ _ _)).trans (sweep_getElem? hp hk hb)
  · exact placeData_get_of_unset m bits hg hnodup hin hk
  · exact placeData_get_of_not_visited m bits h

end Sys2Proof.Machine

/-! A trial by position (`45_matrix.md` R239-R244): the information cells as a list of writes, each at the place R239,
R240 or R241 gives it, then the data on the cells still UNSET. -/

namespace Sys2Proof.Machine

/-! ## Cells set one after another -/

section
variable {α : Type} {n r c : Nat} {f : Grid → α → Grid} {xs : List α} {b : Byte}

/-- A cell that no step touches stays. -/
theorem Grid.get_foldl_of_keep (hkeep : ∀ g : Grid, ∀ x ∈ xs, (f g x).get r c = g.get r c) (g : Grid) :
    (xs.foldl f g).get r c = g.get r c := by
  induction xs generalizing g with
  | nil => rfl
  | cons x rest ih =>
    obtain ⟨hx, hrest⟩ := List.forall_mem_cons.1 fun x hx g => hkeep g x hx
    rw [List.foldl_cons, ih (fun g x hm => hrest x hm g), hx]

/-- A cell that a step sets to `b`, and every step leaves alone or sets to `b`, is `b` after all of them. -/
theorem Grid.get_foldl_of_set (hsq : ∀ (g : Grid) x, g.isSquare n → (f g x).isSquare n)
    (hkeep : ∀ g : Grid, g.isSquare n → ∀ x ∈ xs, (f g x).get r c = g.get r c ∨ (f g x).get r c = b) {x : α}
    (hx : x ∈ xs) (hset : ∀ g : Grid, g.isSquare n → (f g x).get r c = b) {g : Grid} (hg : g.isSquare n) :
    (xs.foldl f g).get r c = b := by
  induction xs using List.reverseRecOn with
  | nil => exact absurd hx List.not_mem_nil
  | append_singleton rest y ih =>
    have hrest := Grid.isSquare_foldl f hsq rest hg
    rw [List.foldl_append, List.foldl_cons, List.foldl_nil]
    rcases List.mem_append.1 hx with hx | hx
    · have hb := ih (fun g hg x hm => hkeep g hg x (List.mem_append_left _ hm)) hx
      rcases hkeep _ hrest y (by simp) with h | h
      · rw [h, hb]
      · exact h
    · obtain rfl := List.mem_singleton.1 hx
      exact hset _ hrest

end

/-- Sets cells in order. -/
def Grid.setCells (g : Grid) (writes : List (Nat × Nat × Byte)) : Grid :=
  writes.foldl (fun g w => g.set w.1 w.2.1 w.2.2) g

theorem Grid.setCells_append (g : Grid) (ws ws' : List (Nat × Nat × Byte)) :
    g.setCells (ws ++ ws') = (g.setCells ws).setCells ws' := List.foldl_append

theorem Grid.setCells_cons (g : Grid) (w : Nat × Nat × Byte) (ws : List (Nat × Nat × Byte)) :
    g.setCells (w :: ws) = (g.set w.1 w.2.1 w.2.2).setCells ws := rfl

section
variable {n r c : Nat} {ws : List (Nat × Nat × Byte)}

theorem Grid.isSquare_setCells {g : Grid} (hg : g.isSquare n) (ws : List (Nat × Nat × Byte)) :
    (g.setCells ws).isSquare n :=
  Grid.isSquare_foldl _ (fun _ _ hg => Grid.isSquare_set hg _ _ _) ws hg

theorem Grid.setCells_get_of_not_written (h : ∀ w ∈ ws, w.1 = r → w.2.1 = c → False) (g : Grid) :
    (g.setCells ws).get r c = g.get r c :=
  Grid.get_foldl_of_keep (fun g w hw => g.get_set_other _ (by
    by_contra hne
    exact h w hw (by omega) (by omega))) g

theorem Grid.setCells_get_of_written {g : Grid} (hg : g.isSquare n) (hr : r < n) (hc : c < n) {b : Byte}
    (hall : ∀ w ∈ ws, w.1 = r → w.2.1 = c → w.2.2 = b) {b' : Byte} (hw : (r, c, b') ∈ ws) :
    (g.setCells ws).get r c = b := by
  refine Grid.get_foldl_of_set (f := fun g w => g.set w.1 w.2.1 w.2.2)
    (fun g w hg => Grid.isSquare_set hg _ _ _) (fun g hg w hm => ?_) hw
    (fun g hg => (Grid.get_set_same hg _ hr hc).trans (hall _ hw rfl rfl)) hg
  by_cases h : w.1 = r ∧ w.2.1 = c
  · obtain ⟨rfl, rfl⟩ := h
    exact .inr ((Grid.get_set_same hg _ hr hc).trans (hall w hm rfl rfl))
  · exact .inl (g.get_set_other _ (by omega))

end

/-! ## The information cells -/

/-- The writes of the format information (`45_matrix.md` R239). -/
def formatWrites (n fmt : Nat) (test : Bool) : List (Nat × Nat × Byte) :=
  (List.range 15).flatMap fun i =>
    [(formatRow n i, 8, cellOf (!test && fmt.testBit i)), (8, formatCol n i, cellOf (!test && fmt.testBit i))]

/-- The writes of the version information (`45_matrix.md` R241). -/
def versionWrites (n ver : Nat) (test : Bool) : List (Nat × Nat × Byte) :=
  (List.range 18).flatMap fun i =>
    [(i / 3, n - 11 + i % 3, cellOf (!test && ver.testBit i)), (n - 11 + i % 3, i / 3, cellOf (!test && ver.testBit i))]

/-- The writes of a trial before its data (`45_matrix.md` R244). -/
def infoWrites (p : Params) (lvl : BitVec 2) (v m : Nat) (test : Bool) : List (Nat × Nat × Byte) :=
  formatWrites (4 * v + 17) (formatInfo p lvl m) test ++
    (4 * v + 17 - 8, 8, cellOf (!test || p.trialDarkModule)) ::
      if 7 ≤ v then versionWrites (4 * v + 17) (versionInfo p v) test else []

/-- A trial places its information, then its data. -/
theorem trialGrid_eq (p : Params) (v : Nat) (lvl : BitVec 2) (bits : List Bool) (m : Nat) (test : Bool) (g : Grid) :
    trialGrid p v lvl bits m test g =
      placeData m (sweep (moduleCount v)) bits (g.setCells (infoWrites p lvl v m test)) := by
  have hformat : ∀ n, placeFormat n (formatInfo p lvl m) test g =
      g.setCells (formatWrites n (formatInfo p lvl m) test) := fun n => by
    rw [Grid.setCells, formatWrites, List.foldl_flatMap]
    rfl
  have hversion : ∀ (n : Nat) (g : Grid), placeVersion p v n test g =
      g.setCells (if 7 ≤ v then versionWrites n (versionInfo p v) test else []) := fun n g => by
    rw [placeVersion]
    split
    · rw [Grid.setCells, versionWrites, List.foldl_flatMap]
      rfl
    · rfl
  simp only [trialGrid, hformat, hversion, placeDarkModule, infoWrites, moduleCount, Grid.setCells_append,
    Grid.setCells_cons]

section
variable (p : Params) (lvl : BitVec 2) {v : Nat} (m : Nat) (test : Bool)

theorem infoCell_formatRow (hv : 1 ≤ v) {i : Nat} (hi : i < 15) :
    infoCell p lvl v m test (formatRow (4 * v + 17) i) 8 =
      some (cellOf (!test && (formatInfo p lvl m).testBit i)) := by
  rcases (by omega : i ≤ 5 ∨ (i = 6 ∨ i = 7) ∨ 8 ≤ i) with h | h | h
  · have hrow : formatRow (4 * v + 17) i = i := if_pos h
    rw [hrow]
    dsimp only [infoCell]
    rw [if_neg (by omega), if_neg (by omega), if_pos (by omega)]
    rfl
  · have hrow : formatRow (4 * v + 17) i = i + 1 := by rw [formatRow, if_neg (by omega), if_pos (by omega)]
    rw [hrow]
    dsimp only [infoCell]
    rw [if_neg (by omega), if_neg (by omega), if_neg (by omega), if_pos (by omega)]
    rfl
  · have hrow : formatRow (4 * v + 17) i = 4 * v + 2 + i := by
      rw [formatRow, if_neg (by omega), if_neg (by omega)]
      omega
    rw [hrow]
    dsimp only [infoCell]
    rw [if_neg (by omega), if_pos (by omega), show 4 * v + 2 + i + 15 - (4 * v + 17) = i by omega]
    rfl

theorem infoCell_formatCol (hv : 1 ≤ v) {i : Nat} (hi : i < 15) :
    infoCell p lvl v m test 8 (formatCol (4 * v + 17) i) =
      some (cellOf (!test && (formatInfo p lvl m).testBit i)) := by
  rcases (by omega : i ≤ 7 ∨ i = 8 ∨ 9 ≤ i) with h | rfl | h
  · have hcol : formatCol (4 * v + 17) i = 4 * v + 16 - i := if_pos h
    rw [hcol]
    dsimp only [infoCell]
    rw [if_neg (by omega), if_neg (by omega), if_neg (by omega), if_neg (by omega), if_pos (by omega),
      show 4 * v + 17 - 1 - (4 * v + 16 - i) = i by omega]
    rfl
  · have hcol : formatCol (4 * v + 17) 8 = 7 := by rw [formatCol, if_neg (by omega), if_pos rfl]
    rw [hcol]
    dsimp only [infoCell]
    rw [if_neg (by omega), if_neg (by omega), if_neg (by omega), if_neg (by omega), if_neg (by omega),
      if_pos (by omega)]
    rfl
  · have hcol : formatCol (4 * v + 17) i = 14 - i := by rw [formatCol, if_neg (by omega), if_neg (by omega)]
    rw [hcol]
    dsimp only [infoCell]
    rw [if_neg (by omega), if_neg (by omega), if_neg (by omega), if_neg (by omega), if_neg (by omega),
      if_neg (by omega), if_pos (by omega), show 14 - (14 - i) = i by omega]
    rfl

theorem infoCell_darkModule :
    infoCell p lvl v m test (4 * v + 17 - 8) 8 = some (cellOf (!test || p.trialDarkModule)) := if_pos ⟨rfl, rfl⟩

theorem infoCell_versionRow (hv : 7 ≤ v) {i : Nat} (hi : i < 18) :
    infoCell p lvl v m test (i / 3) (4 * v + 17 - 11 + i % 3) =
      some (cellOf (!test && (versionInfo p v).testBit i)) := by
  dsimp only [infoCell]
  rw [if_neg (by omega), if_neg (by omega), if_neg (by omega), if_neg (by omega), if_neg (by omega), if_neg (by omega),
    if_neg (by omega), if_pos (by omega), show 3 * (i / 3) + (4 * v + 17 - 11 + i % 3 + 11 - (4 * v + 17)) = i by omega]
  rfl

theorem infoCell_versionCol (hv : 7 ≤ v) {i : Nat} (hi : i < 18) :
    infoCell p lvl v m test (4 * v + 17 - 11 + i % 3) (i / 3) =
      some (cellOf (!test && (versionInfo p v).testBit i)) := by
  dsimp only [infoCell]
  rw [if_neg (by omega), if_neg (by omega), if_neg (by omega), if_neg (by omega), if_neg (by omega), if_neg (by omega),
    if_neg (by omega), if_neg (by omega), if_pos (by omega),
    show 3 * (i / 3) + (4 * v + 17 - 11 + i % 3 + 11 - (4 * v + 17)) = i by omega]
  rfl

end

theorem forall_mem_formatWrites {n fmt : Nat} {test : Bool} {P : Nat × Nat × Byte → Prop}
    (hrow : ∀ i, i < 15 → P (formatRow n i, 8, cellOf (!test && fmt.testBit i)))
    (hcol : ∀ i, i < 15 → P (8, formatCol n i, cellOf (!test && fmt.testBit i))) :
    ∀ w ∈ formatWrites n fmt test, P w := by
  intro w hw
  obtain ⟨i, hi, hw⟩ := List.mem_flatMap.1 hw
  have hi := List.mem_range.1 hi
  rcases List.mem_pair.1 hw with rfl | rfl
  · exact hrow i hi
  · exact hcol i hi

theorem forall_mem_versionWrites {n ver : Nat} {test : Bool} {P : Nat × Nat × Byte → Prop}
    (hrow : ∀ i, i < 18 → P (i / 3, n - 11 + i % 3, cellOf (!test && ver.testBit i)))
    (hcol : ∀ i, i < 18 → P (n - 11 + i % 3, i / 3, cellOf (!test && ver.testBit i))) :
    ∀ w ∈ versionWrites n ver test, P w := by
  intro w hw
  obtain ⟨i, hi, hw⟩ := List.mem_flatMap.1 hw
  have hi := List.mem_range.1 hi
  rcases List.mem_pair.1 hw with rfl | rfl
  · exact hrow i hi
  · exact hcol i hi

/-- Every write of the information is at the place of what it writes. -/
theorem infoCell_of_mem_infoWrites {p : Params} {lvl : BitVec 2} {v m : Nat} {test : Bool} (h1 : 1 ≤ v) :
    ∀ w ∈ infoWrites p lvl v m test, infoCell p lvl v m test w.1 w.2.1 = some w.2.2 := by
  refine List.forall_mem_append.2 ⟨forall_mem_formatWrites (fun i hi => infoCell_formatRow p lvl m test h1 hi)
    fun i hi => infoCell_formatCol p lvl m test h1 hi, List.forall_mem_cons.2
      ⟨infoCell_darkModule p lvl m test, ?_⟩⟩
  split
  · rename_i h7
    exact forall_mem_versionWrites (fun i hi => infoCell_versionRow p lvl m test h7 hi)
      fun i hi => infoCell_versionCol p lvl m test h7 hi
  · exact fun w hw => absurd hw List.not_mem_nil

section
variable (p : Params) (lvl : BitVec 2) {v : Nat} (m : Nat) (test : Bool)

theorem exists_mem_infoWrites_format {i r c : Nat} (hi : i < 15)
    (h : r = formatRow (4 * v + 17) i ∧ c = 8 ∨ r = 8 ∧ c = formatCol (4 * v + 17) i) :
    ∃ b, (r, c, b) ∈ infoWrites p lvl v m test := by
  refine ⟨cellOf (!test && (formatInfo p lvl m).testBit i), List.mem_append_left _ ?_⟩
  refine List.mem_flatMap.2 ⟨i, List.mem_range.2 hi, List.mem_pair.2 ?_⟩
  rcases h with ⟨rfl, rfl⟩ | ⟨rfl, rfl⟩
  · exact .inl rfl
  · exact .inr rfl

theorem exists_mem_infoWrites_darkModule : ∃ b, (4 * v + 17 - 8, 8, b) ∈ infoWrites p lvl v m test :=
  ⟨cellOf (!test || p.trialDarkModule), List.mem_append_right _ List.mem_cons_self⟩

theorem exists_mem_infoWrites_version (hv : 7 ≤ v) {i r c : Nat} (hi : i < 18)
    (h : r = i / 3 ∧ c = 4 * v + 17 - 11 + i % 3 ∨ r = 4 * v + 17 - 11 + i % 3 ∧ c = i / 3) :
    ∃ b, (r, c, b) ∈ infoWrites p lvl v m test := by
  refine ⟨cellOf (!test && (versionInfo p v).testBit i), List.mem_append_right _ (List.mem_cons_of_mem _ ?_)⟩
  rw [if_pos hv]
  refine List.mem_flatMap.2 ⟨i, List.mem_range.2 hi, List.mem_pair.2 ?_⟩
  rcases h with ⟨rfl, rfl⟩ | ⟨rfl, rfl⟩
  · exact .inl rfl
  · exact .inr rfl

end

/-- Every information cell is written. -/
theorem exists_mem_infoWrites {p : Params} {lvl : BitVec 2} {v m : Nat} {test : Bool} {r c : Nat} (hr : r < 4 * v + 17)
    (hc : c < 4 * v + 17) (h : infoCell p lvl v m test r c ≠ none) : ∃ b, (r, c, b) ∈ infoWrites p lvl v m test := by
  have hrow : ∀ i, i < 15 → formatRow (4 * v + 17) i = r → c = 8 → ∃ b, (r, c, b) ∈ infoWrites p lvl v m test :=
    fun i hi hrow h8 => exists_mem_infoWrites_format p lvl m test hi (.inl ⟨hrow.symm, h8⟩)
  have hcol : ∀ i, i < 15 → formatCol (4 * v + 17) i = c → r = 8 → ∃ b, (r, c, b) ∈ infoWrites p lvl v m test :=
    fun i hi hcol h8 => exists_mem_infoWrites_format p lvl m test hi (.inr ⟨h8, hcol.symm⟩)
  by_contra hno
  have hdark : ¬(c = 8 ∧ r = 4 * v + 17 - 8) := by
    rintro ⟨rfl, rfl⟩
    exact hno (exists_mem_infoWrites_darkModule p lvl m test)
  have hrowLast : ¬(c = 8 ∧ 4 * v + 17 - 7 ≤ r) := fun ⟨h8, hle⟩ =>
    hno (hrow (r + 15 - (4 * v + 17)) (by omega) (by rw [formatRow, if_neg (by omega), if_neg (by omega)]; omega) h8)
  have hrowFirst : ¬(c = 8 ∧ r ≤ 5) := fun ⟨h8, hle⟩ => hno (hrow r (by omega) (if_pos hle) h8)
  have hrowNext : ¬(c = 8 ∧ (r = 7 ∨ r = 8)) := fun ⟨h8, hr⟩ =>
    hno (hrow (r - 1) (by omega) (by rw [formatRow, if_neg (by omega), if_pos (by omega)]; omega) h8)
  have hcolFirst : ¬(r = 8 ∧ 4 * v + 17 - 8 ≤ c) := fun ⟨h8, hle⟩ =>
    hno (hcol (4 * v + 17 - 1 - c) (by omega) (by rw [formatCol, if_pos (by omega)]; omega) h8)
  have hcolNext : ¬(r = 8 ∧ c = 7) := fun ⟨h8, h7⟩ => hno (hcol 8 (by omega) h7.symm h8)
  have hcolLast : ¬(r = 8 ∧ c ≤ 5) := fun ⟨h8, hle⟩ =>
    hno (hcol (14 - c) (by omega) (by rw [formatCol, if_neg (by omega), if_neg (by omega)]; omega) h8)
  have hversionRow : ¬(7 ≤ v ∧ r ≤ 5 ∧ 4 * v + 17 - 11 ≤ c ∧ c ≤ 4 * v + 17 - 9) := fun ⟨h7, hrc⟩ =>
    hno (exists_mem_infoWrites_version p lvl m test h7 (i := 3 * r + (c + 11 - (4 * v + 17))) (by omega)
      (.inl (by omega)))
  have hversionCol : ¬(7 ≤ v ∧ c ≤ 5 ∧ 4 * v + 17 - 11 ≤ r ∧ r ≤ 4 * v + 17 - 9) := fun ⟨h7, hrc⟩ =>
    hno (exists_mem_infoWrites_version p lvl m test h7 (i := 3 * c + (r + 11 - (4 * v + 17))) (by omega)
      (.inr (by omega)))
  refine h ?_
  dsimp only [infoCell]
  rw [if_neg hdark, if_neg hrowLast, if_neg hrowFirst, if_neg hrowNext, if_neg hcolFirst, if_neg hcolNext,
    if_neg hcolLast, if_neg hversionRow, if_neg hversionCol]

/-- Before the data a cell is an information cell, or as the template has it (`45_matrix.md` R239-R241). -/
theorem setCells_infoWrites_get {p : Params} {lvl : BitVec 2} {v m : Nat} {test : Bool} {r c : Nat} {g : Grid}
    (hv : 1 ≤ v) (hg : g.isSquare (4 * v + 17)) (hr : r < 4 * v + 17) (hc : c < 4 * v + 17) :
    (g.setCells (infoWrites p lvl v m test)).get r c = (infoCell p lvl v m test r c).getD (g.get r c) := by
  have hsound := infoCell_of_mem_infoWrites (p := p) (lvl := lvl) (m := m) (test := test) hv
  cases hi : infoCell p lvl v m test r c with
  | none =>
    refine Grid.setCells_get_of_not_written (fun w hw hwr hwc => ?_) g
    have hw := hsound w hw
    rw [hwr, hwc, hi] at hw
    cases hw
  | some b =>
    obtain ⟨b', hb'⟩ := exists_mem_infoWrites (p := p) (lvl := lvl) (m := m) (test := test) hr hc (by rw [hi]; nofun)
    refine Grid.setCells_get_of_written hg hr hc (fun w hw hwr hwc => ?_) hb'
    have hw := hsound w hw
    rw [hwr, hwc, hi] at hw
    exact (Option.some.inj hw).symm

end Sys2Proof.Machine

/-! MX_TRIAL and MX_COMMIT (`45_matrix.md` R244, R245, R266, R267): the matrix each stores, by position. -/

namespace Sys2Proof.Machine

/-! ## Codeword bits and data cells -/

/-- The codewords as bits, and 0 beyond them (`45_matrix.md` R242). -/
theorem codewordBits_getD (s : State) (k : Nat) : (codewordBits s).getD k false = s.codewordBit k := by
  have hk : 8 * (k / 8) + k % 8 = k := Nat.div_add_mod k 8
  have hlt : k % 8 < 8 := Nat.mod_lt _ (by decide)
  have hget := getElem?_flatMap_of_length (m := 8) (f := fun b : Byte => bitsOf b.toNat 8)
    (l := s.bytesAt Window.cw.base s.cwLen.toNat) (fun b _ => bitsOf_length b.toNat 8) (p := k / 8) hlt
  rw [hk] at hget
  rw [codewordBits, List.getD_eq_getElem?_getD, hget, State.bytesAt_eq, List.getElem?_map, State.codewordBit]
  by_cases hp : k / 8 < s.cwLen.toNat
  · rw [List.getElem?_range hp, decide_eq_true hp, Bool.true_and]
    exact (bitsOf_getD _ hlt).trans rfl
  · rw [List.getElem?_eq_none (by simpa using hp), decide_eq_false hp]
    rfl

theorem isNone_ite_some {α : Type} {P : Prop} [Decidable P] {a b : α} {x y : Option α} (h : x.isNone = y.isNone) :
    (if P then some a else x).isNone = (if P then some b else y).isNone := by
  by_cases hP : P
  · rw [if_pos hP, if_pos hP]
    rfl
  · rw [if_neg hP, if_neg hP, h]

/-- Which cells hold information depends neither on the mask nor on whether the trial is a test. -/
theorem infoCell_isNone (p : Params) (lvl : BitVec 2) (v m : Nat) (test : Bool) (r c : Nat) :
    (infoCell p lvl v m test r c).isNone = (infoCell p lvl v 0 true r c).isNone := by
  dsimp only [infoCell]
  iterate 9 refine isNone_ite_some ?_
  rfl

theorem assigned_of_mem_infoWrites {p : Params} {lvl : BitVec 2} {v m : Nat} {test : Bool} :
    ∀ w ∈ infoWrites p lvl v m test, Assigned w.2.2 := by
  refine List.forall_mem_append.2 ⟨forall_mem_formatWrites (fun _ _ => assigned_cellOf _) fun _ _ => assigned_cellOf _,
    List.forall_mem_cons.2 ⟨assigned_cellOf _, ?_⟩⟩
  split
  · exact forall_mem_versionWrites (fun _ _ => assigned_cellOf _) fun _ _ => assigned_cellOf _
  · exact fun w hw => absurd hw List.not_mem_nil

theorem infoCell_assigned {p : Params} {lvl : BitVec 2} {v m : Nat} {test : Bool} {r c : Nat} {b : Byte} (hv : 1 ≤ v)
    (hr : r < 4 * v + 17) (hc : c < 4 * v + 17) (h : infoCell p lvl v m test r c = some b) : Assigned b := by
  obtain ⟨b', hb'⟩ := exists_mem_infoWrites hr hc (by rw [h]; nofun)
  have hw := infoCell_of_mem_infoWrites hv _ hb'
  rw [h] at hw
  exact Option.some.inj hw ▸ assigned_of_mem_infoWrites _ hb'

/-! ## A trial, cell by cell -/

/-- The matrix of a trial before its data. -/
def infoGrid (s : State) (m : Nat) (test : Bool) : Grid :=
  (s.matrixAt .tpl (moduleCount s.tplVer.toNat)).setCells (infoWrites s.params s.cfgLevel s.tplVer.toNat m test)

theorem trial_eq (s : State) (m : Nat) (test : Bool) :
    trial s m test = placeData m (sweep (moduleCount s.tplVer.toNat)) (codewordBits s) (infoGrid s m test) :=
  trialGrid_eq _ _ _ _ _ _ _

theorem infoGrid_isSquare (s : State) (m : Nat) (test : Bool) :
    (infoGrid s m test).isSquare (moduleCount s.tplVer.toNat) :=
  Grid.isSquare_setCells (State.matrixAt_isSquare _ _ _) _

theorem one_le_of_ne_zero {w : Nat} {x : BitVec w} (h : x ≠ 0) : 1 ≤ x.toNat :=
  Nat.one_le_iff_ne_zero.2 fun h0 => h (BitVec.eq_of_toNat_eq (by simpa using h0))

section
variable {s : State} (h0 : s.tplVer ≠ 0) (h40 : s.tplVer.toNat ≤ 40) (m : Nat) (test : Bool)
include h0 h40

theorem infoGrid_get {r c : Nat} (hr : r < moduleCount s.tplVer.toNat) (hc : c < moduleCount s.tplVer.toNat) :
    (infoGrid s m test).get r c =
      (infoCell s.params s.cfgLevel s.tplVer.toNat m test r c).getD (s.cell .tpl r c) := by
  rw [← State.get_matrixAt s .tpl (by rw [moduleCount]; omega) hr hc]
  exact setCells_infoWrites_get (one_le_of_ne_zero h0) (State.matrixAt_isSquare _ _ _) hr hc

/-- The cells that take data are those still UNSET after the information is placed. -/
theorem unsetCells_infoGrid :
    unsetCells (infoGrid s m test) (sweep (moduleCount s.tplVer.toNat)) = s.dataCells := by
  refine List.filter_congr fun x hx => ?_
  obtain ⟨hr, hc, -⟩ := mem_sweep_iff.1 hx
  rw [infoGrid_get h0 h40 m test hr hc, ← infoCell_isNone _ _ _ m test]
  cases hi : infoCell s.params s.cfgLevel s.tplVer.toNat m test x.1 x.2 with
  | none => rw [Option.getD_none, Option.isNone_none, Bool.true_and]; rfl
  | some b =>
    rw [Option.getD_some, Option.isNone_some, Bool.false_and,
      decide_eq_false (infoCell_assigned (one_le_of_ne_zero h0) hr hc hi).ne_unset]

/-- A cell that is no data cell is as the information or the template has it. -/
theorem trial_get_of_not_unset {r c : Nat} (hr : r < moduleCount s.tplVer.toNat) (hc : c < moduleCount s.tplVer.toNat)
    {b : Byte} (hb : (infoCell s.params s.cfgLevel s.tplVer.toNat m test r c).getD (s.cell .tpl r c) = b)
    (hset : b ≠ cellUnset) : (trial s m test).get r c = b := by
  have hget := (infoGrid_get h0 h40 m test hr hc).trans hb
  rw [trial_eq, placeData_get_of_not_visited m _ (.inr (hget ▸ hset)), hget]

theorem trial_get_of_infoCell {r c : Nat} (hr : r < moduleCount s.tplVer.toNat) (hc : c < moduleCount s.tplVer.toNat)
    {b : Byte} (hb : infoCell s.params s.cfgLevel s.tplVer.toNat m test r c = some b) :
    (trial s m test).get r c = b :=
  trial_get_of_not_unset h0 h40 m test hr hc (by rw [hb, Option.getD_some])
    (infoCell_assigned (one_le_of_ne_zero h0) hr hc hb).ne_unset

theorem trial_get_of_dataCell {k r c : Nat} (hk : s.dataCells[k]? = some (r, c)) :
    (trial s m test).get r c = cellOf (s.codewordBit k ^^ maskBit m r c) := by
  rw [← unsetCells_infoGrid h0 h40 m test] at hk
  rw [trial_eq, ← codewordBits_getD]
  refine placeData_get_of_unset m _ (infoGrid_isSquare s m test) (sweep_nodup _) (fun x hx => ?_) hk
  obtain ⟨hr, hc, -⟩ := mem_sweep_iff.1 hx
  exact ⟨hr, hc⟩

/-- A window whose cells are a trial's holds the trial by position. -/
theorem trialIn_of_cells {t : State} {w : Window}
    (h : ∀ r c, r < moduleCount s.tplVer.toNat → c < moduleCount s.tplVer.toNat →
      t.cell w r c = (trial s m test).get r c) : s.TrialIn t w m test := by
  refine ⟨fun r c hr hc => ⟨fun b hb => ?_, fun hnone hset => ?_⟩, fun k r c hk => ?_⟩
  · rw [h r c hr hc, trial_get_of_infoCell h0 h40 m test hr hc hb]
  · rw [h r c hr hc, trial_get_of_not_unset h0 h40 m test hr hc (by rw [hnone, Option.getD_none]) hset]
  · obtain ⟨hr, hc, -⟩ := mem_sweep_iff.1 (List.mem_of_mem_filter (List.mem_of_getElem? hk))
    exact (h r c hr hc).trans (trial_get_of_dataCell h0 h40 m test hk)

end

/-- The cells of a trial that a window holds. -/
theorem cell_of_trial_stored {s t : State} {w : Window} (hw : w = .tpl ∨ w = .final ∨ ∃ m, m < 8 ∧ w = .trial m)
    {m : Nat} {test : Bool} (h40 : s.tplVer.toNat ≤ 40) (ht : t.mem = s.matrixMem w (trial s m test)) {r c : Nat}
    (hr : r < moduleCount s.tplVer.toNat) (hc : c < moduleCount s.tplVer.toNat) :
    t.cell w r c = (trial s m test).get r c :=
  State.cell_of_matrixMem hw ht (trial_isSquare s m test) (by rw [moduleCount]; omega) hr hc

/-! ## The commands -/

theorem exec_mxTrial {s : State} {m : Nat} (h0 : s.tplVer ≠ 0) (hm : m ≤ 7) (test : Bool) :
    exec (.mxTrial m test) s = .next (s.storeTrial m (trial s m test)).succeed :=
  complete_ok (by rw [ruleMxTrial, checkTrial_eq_ok.2 ⟨h0, hm⟩])

/-- Settles O30: the stored matrix is the trial, by position. -/
theorem mxTrialResult : Obligations.MxTrialResult := by
  intro s m test h0 h40 hm
  have hcell : ∀ r c, r < moduleCount s.tplVer.toNat → c < moduleCount s.tplVer.toNat →
      (s.storeTrial m (trial s m test)).succeed.cell (.trial m) r c = (trial s m test).get r c :=
    fun r c hr hc => cell_of_trial_stored (.inr (.inr ⟨m, by omega, rfl⟩)) h40 rfl hr hc
  exact ⟨_, exec_mxTrial h0 hm test, rfl, hcell, trialIn_of_cells h0 h40 m test hcell,
    fun a ha => State.byteAt_storeTrial_outside s m _ (by omega)⟩

/-- What MX_COMMIT leaves (`45_matrix.md` R266). -/
def State.committed (s : State) (m : Nat) : State :=
  { s.storeFinal (trial s m false) with finalVer := s.tplVer, resMask := BitVec.ofNat 3 m }.succeed

theorem exec_mxCommit {s : State} {mask m : Nat} {useBest : Bool} (h0 : s.tplVer ≠ 0)
    (hm : m = if useBest then s.best.toNat else mask) (h7 : m ≤ 7) :
    exec (.mxCommit mask useBest) s = .next (s.committed m) := by
  subst hm
  exact complete_ok (by rw [ruleMxCommit, checkTrial_eq_ok.2 ⟨h0, h7⟩])

theorem committed_cell {s : State} (h40 : s.tplVer.toNat ≤ 40) (m : Nat) {r c : Nat}
    (hr : r < moduleCount s.tplVer.toNat) (hc : c < moduleCount s.tplVer.toNat) :
    (s.committed m).cell .final r c = (trial s m false).get r c :=
  cell_of_trial_stored (.inr (.inl rfl)) h40 rfl hr hc

/-- Settles O34: the stored matrix is the trial, by position. -/
theorem mxCommitResult : Obligations.MxCommitResult := by
  intro s mask m useBest h0 h40 hm h7
  exact ⟨_, exec_mxCommit h0 hm h7, rfl, fun r c hr hc => committed_cell h40 m hr hc,
    trialIn_of_cells h0 h40 m false fun r c hr hc => committed_cell h40 m hr hc,
    fun a ha => State.byteAt_storeFinal_outside s _ ha⟩

/-- Settles O35: a trial of a template is complete, and its information cells hold what they are for. -/
theorem committedSymbol : Obligations.CommittedSymbol := by
  intro s t mask m useBest ht h0 hm h7 h v n fmt ver
  obtain ⟨h40, -⟩ := ht h0
  have h1 := one_le_of_ne_zero h0
  rw [exec_mxCommit h0 hm h7, Host.Outcome.next.injEq] at h
  subst h
  have hinfo : ∀ {r c : Nat} {b : Byte}, r < n → c < n → infoCell s.params s.cfgLevel v m false r c = some b →
      (s.committed m).cell .final r c = b := fun hr hc hb =>
    (committed_cell h40 m hr hc).trans (trial_get_of_infoCell h0 h40 m false hr hc hb)
  refine ⟨fun r c hr hc => ?_, fun i hi => ⟨?_, ?_⟩, ?_, fun hv i hi => ⟨?_, ?_⟩⟩
  · rw [committed_cell h40 m hr hc, trial, ht.matrixAt_eq h0]
    exact trialGrid_template_get s.params h1 _ _ _ _ hr hc
  · exact hinfo (by split_ifs <;> omega) (by omega) (infoCell_formatRow s.params s.cfgLevel m false h1 hi)
  · exact hinfo (by omega) (by split_ifs <;> omega) (infoCell_formatCol s.params s.cfgLevel m false h1 hi)
  · exact hinfo (by omega) (by omega) (infoCell_darkModule s.params s.cfgLevel m false)
  · exact hinfo (by omega) (by omega) (infoCell_versionRow s.params s.cfgLevel m false hv hi)
  · exact hinfo (by omega) (by omega) (infoCell_versionCol s.params s.cfgLevel m false hv hi)

end Sys2Proof.Machine

/-! MX_EVAL (`45_matrix.md` R261-R263): the best mask, and the lanes as commands in turn. -/

namespace Sys2Proof.Machine

/-! ## The best mask -/

/-- The search of `bestMask` over the first `n` masks, by their penalties. -/
def leastIndex (f : Nat → Nat) (n : Nat) : Nat := (List.range n).foldl (fun b m => if f m < f b then m else b) 0

/-- The search ends with the least index of the minimum. -/
theorem leastIndex_spec (f : Nat → Nat) {n : Nat} (hn : 1 ≤ n) :
    leastIndex f n < n ∧ (∀ m, m < n → f (leastIndex f n) ≤ f m) ∧ ∀ m, m < leastIndex f n → f (leastIndex f n) < f m := by
  induction n, hn using Nat.le_induction with
  | base =>
    have hzero : leastIndex f 1 = 0 := ite_self 0
    rw [hzero]
    exact ⟨Nat.zero_lt_one, fun m hm => (congrArg f (Nat.lt_one_iff.1 hm)).ge, fun m hm => absurd hm (Nat.not_lt_zero m)⟩
  | succ n _ ih =>
    obtain ⟨hlt, hmin, hfirst⟩ := ih
    have hstep : leastIndex f (n + 1) = if f n < f (leastIndex f n) then n else leastIndex f n := by
      rw [leastIndex, List.range_succ, List.foldl_append]
      rfl
    rw [hstep]
    split
    · rename_i hless
      refine ⟨Nat.lt_succ_self n, fun m hm => ?_, fun m hm => hless.trans_le (hmin m hm)⟩
      rcases Nat.lt_succ_iff_lt_or_eq.1 hm with hm | rfl
      · exact (hless.trans_le (hmin m hm)).le
      · exact le_rfl
    · rename_i hless
      refine ⟨hlt.trans (Nat.lt_succ_self n), fun m hm => ?_, hfirst⟩
      rcases Nat.lt_succ_iff_lt_or_eq.1 hm with hm | rfl
      · exact hmin m hm
      · exact Nat.le_of_not_lt hless

theorem pen_getD (pen : Vector Word 8) (m : Fin 8) : pen.toList.getD m.val 0 = pen.get m := by
  rw [Vector.get_eq_getElem, List.getD_eq_getElem _ _ (by simp), Vector.getElem_toList]

/-- `bestMask` is the least mask of minimal penalty (`45_matrix.md` R261). -/
theorem bestMask_spec (pen : Vector Word 8) :
    ∃ b : Fin 8, bestMask pen = b.val ∧ (∀ m : Fin 8, (pen.get b).toNat ≤ (pen.get m).toNat) ∧
      ∀ m : Fin 8, m.val < b.val → (pen.get b).toNat < (pen.get m).toNat := by
  obtain ⟨hlt, hmin, hfirst⟩ := leastIndex_spec (fun m => (pen.toList.getD m 0).toNat) (n := 8) (by decide)
  refine ⟨⟨bestMask pen, hlt⟩, rfl, fun m => ?_, fun m hm => ?_⟩
  · rw [← pen_getD, ← pen_getD]
    exact hmin m.val m.isLt
  · rw [← pen_getD, ← pen_getD]
    exact hfirst m.val hm

/-! ## The lanes -/

/-- What the lanes of MX_EVAL leave (`45_matrix.md` R262). Irreducible, so that no proof runs the lanes. -/
@[irreducible] def State.lanes (s : State) : State := (List.range 8).foldl (evalLane s) s

theorem State.lanes_frame (s : State) :
    s.lanes =
      { s with mem := s.lanes.mem, pen := s.lanes.pen, draws := { s.draws with trial := s.lanes.draws.trial } } := by
  rw [State.lanes]
  exact evalLanes_frame s s _

theorem State.lanes_sameOutside (s : State) : s.sameOutside s.lanes 0x020000 0x060000 := by
  rw [State.lanes]
  exact State.sameOutside_evalLanes s s fun _ hm => List.mem_range.1 hm

/-- What MX_EVAL leaves (`45_matrix.md` R262). -/
def State.evaluated (s : State) : State := { s.lanes with best := BitVec.ofNat 3 (bestMask s.lanes.pen) }

theorem ruleMxEval_ok {s : State} (h0 : s.tplVer ≠ 0) : ruleMxEval s = .ok s.evaluated := by
  rw [ruleMxEval, if_neg h0, State.evaluated, State.lanes]

theorem State.evaluated_frame (s : State) :
    s.evaluated = { s with
      mem := s.lanes.mem, pen := s.lanes.pen, draws := { s.draws with trial := s.lanes.draws.trial },
      best := BitVec.ofNat 3 (bestMask s.lanes.pen) } :=
  congrArg (fun u : State => { u with best := BitVec.ofNat 3 (bestMask s.lanes.pen) }) s.lanes_frame

theorem State.evaluated_best (s : State) :
    (∀ m : Fin 8, (s.evaluated.pen.get s.evaluated.best.toFin).toNat ≤ (s.evaluated.pen.get m).toNat) ∧
      ∀ m : Fin 8, m.val < s.evaluated.best.toNat →
        (s.evaluated.pen.get s.evaluated.best.toFin).toNat < (s.evaluated.pen.get m).toNat := by
  obtain ⟨b, hb, hmin, hfirst⟩ := bestMask_spec s.lanes.pen
  have hbest : s.evaluated.best = BitVec.ofNat 3 b.val := congrArg (BitVec.ofNat 3) hb
  have hfin : (BitVec.ofNat 3 b.val).toFin = b := Fin.ext (Nat.mod_eq_of_lt b.isLt)
  have hnat : (BitVec.ofNat 3 b.val).toNat = b.val := Nat.mod_eq_of_lt b.isLt
  rw [hbest, hfin, hnat]
  exact ⟨hmin, hfirst⟩

/-- Settles O32: the search for the best mask, and the lanes' frame. -/
theorem mxEvalBest : Obligations.MxEvalBest := by
  intro s h0
  obtain ⟨hmin, hfirst⟩ := s.evaluated_best
  have hframe : s.evaluated.succeed = { s.completed with
      mem := s.evaluated.succeed.mem, draws := s.evaluated.succeed.draws, pen := s.evaluated.succeed.pen,
      best := s.evaluated.succeed.best } := by
    rw [State.evaluated_frame]
    rfl
  exact ⟨_, complete_ok (ruleMxEval_ok h0), hframe, hmin, hfirst, fun a ha => s.lanes_sameOutside a ha⟩

/-! ## What a trial reads -/

theorem bytesAt_congr {s t : State} {base len : Nat} (h : ∀ i, i < len → t.byteAt (base + i) = s.byteAt (base + i)) :
    t.bytesAt base len = s.bytesAt base len := by
  rw [State.bytesAt_eq, State.bytesAt_eq]
  exact List.map_congr_left fun i hi => h i (List.mem_range.1 hi)

theorem matrixAt_congr {s t : State} {w : Window} {n : Nat} (hn : n ≤ 177)
    (h : ∀ r c, r < n → c < n → t.cell w r c = s.cell w r c) : t.matrixAt w n = s.matrixAt w n := by
  rw [State.matrixAt_eq t w hn, State.matrixAt_eq s w hn]
  exact List.map_congr_left fun r hr => List.map_congr_left fun c hc => h r c (List.mem_range.1 hr) (List.mem_range.1 hc)

/-- Two states that agree on what a trial reads: TPL's matrix, TPLVER, the codewords, CFG.LEVEL and the parameters. -/
structure State.SameTrial (s t : State) : Prop where
  params : t.params = s.params
  tplVer : t.tplVer = s.tplVer
  cfgLevel : t.cfgLevel = s.cfgLevel
  codewords : codewordBits t = codewordBits s
  template : t.matrixAt .tpl (moduleCount s.tplVer.toNat) = s.matrixAt .tpl (moduleCount s.tplVer.toNat)

theorem State.SameTrial.trial_eq {s t : State} (h : s.SameTrial t) (m : Nat) (test : Bool) :
    trial t m test = trial s m test := by
  rw [trial, trial, h.params, h.tplVer, h.cfgLevel, h.codewords, h.template]

/-- The effects that write TRIAL alone leave what a trial reads. -/
theorem State.sameTrial_of_sameOutside {s t : State} (h40 : s.tplVer.toNat ≤ 40) (hp : t.params = s.params)
    (hv : t.tplVer = s.tplVer) (hl : t.cfgLevel = s.cfgLevel) (hc : t.cwLen = s.cwLen)
    (hm : s.sameOutside t 0x020000 0x060000) : s.SameTrial t := by
  refine ⟨hp, hv, hl, ?_, matrixAt_congr (by rw [moduleCount]; omega) fun r c hr hc => hm _ (.inl ?_)⟩
  · have := s.cwLen.isLt
    rw [codewordBits, codewordBits, hc, bytesAt_congr fun i hi => hm _ (.inl ?_)]
    simp only [Window.base]
    omega
  · have := cellAddress_lt h40 hr hc
    simp only [Window.base]
    omega

/-! ## The lanes as commands -/

/-- A command of the sequence is done, and RESULT is `r`. -/
def State.reported (t : State) (r : Word) : State := { t with result := r }.succeed

/-- A lane as MX_TRIAL and then MX_SCORE leave it, with the penalty in RESULT too. -/
def evalStep (s t : State) (m : Nat) : State :=
  (evalLane s t m).reported (BitVec.ofNat 32 (score (moduleCount s.tplVer.toNat) (trial s m true)))

/-- The lanes neither read nor write what the reports of the commands between them change. -/
theorem evalLanes_reported (s t : State) (q r : Word) (ms : List Nat) :
    (ms.foldl (evalLane s) (t.reported q)).reported r = (ms.foldl (evalLane s) t).reported r := by
  induction ms generalizing t with
  | nil => rfl
  | cons m rest ih => exact ih (evalLane s t m)

theorem evalSteps_reported (s t : State) (r : Word) (ms : List Nat) :
    (ms.foldl (evalStep s) t).reported r = (ms.foldl (evalLane s) t).reported r := by
  induction ms generalizing t with
  | nil => rfl
  | cons m rest ih => exact (ih (evalStep s t m)).trans (evalLanes_reported s (evalLane s t m) _ r rest)

theorem evalSteps_sameTrial {s : State} (h40 : s.tplVer.toNat ≤ 40) {ms : List Nat} (hms : ∀ m ∈ ms, m < 8) :
    s.SameTrial (ms.foldl (evalStep s) s) := by
  have hframe : (ms.foldl (evalStep s) s).reported 0 = (ms.foldl (evalLane s) s).reported 0 := evalSteps_reported s s 0 ms
  rw [evalLanes_frame] at hframe
  refine State.sameTrial_of_sameOutside h40 (congrArg State.params hframe :) (congrArg State.tplVer hframe :)
    (congrArg State.cfgLevel hframe :) (congrArg State.cwLen hframe :) fun a ha => ?_
  rw [← evalLanes_frame] at hframe
  exact (congrArg (State.byteAt · a) hframe :).trans (State.sameOutside_evalLanes s s hms a ha)

/-- What MX_SCORE leaves, for the penalty `p` (`45_matrix.md` R255). -/
def State.scored (s : State) (m : Nat) (p : Word) : State := { s with pen := s.pen.setIfInBounds m p, result := p }

theorem ruleMxScore_ok {s : State} {m : Nat} (h0 : s.tplVer ≠ 0) (hm : m ≤ 7) :
    ruleMxScore m s = .ok (s.scored m (BitVec.ofNat 32
      (score (moduleCount s.tplVer.toNat) (s.matrixAt (.trial m) (moduleCount s.tplVer.toNat))))) := by
  rw [ruleMxScore, checkTrial_eq_ok.2 ⟨h0, hm⟩]
  rfl

/-- MX_TRIAL #m, test=1 and MX_SCORE #m, from a state that agrees with `s` on what trials read, are the lane `m`. -/
theorem exec_trial_score {s t : State} (h0 : s.tplVer ≠ 0) (h40 : s.tplVer.toNat ≤ 40) (h : s.SameTrial t) {m : Nat}
    (hm : m < 8) : ∃ mid, exec (.mxTrial m true) t = .next mid ∧ exec (.mxScore m) mid = .next (evalStep s t m) := by
  have h0t : t.tplVer ≠ 0 := h.tplVer ▸ h0
  refine ⟨_, exec_mxTrial h0t (Nat.le_of_lt_succ hm) true, ?_⟩
  rw [h.trial_eq]
  have hread : (t.storeTrial m (trial s m true)).succeed.matrixAt (.trial m) (moduleCount s.tplVer.toNat) =
      trial s m true :=
    State.matrixAt_of_matrixMem (.inr (.inr ⟨m, hm, rfl⟩)) rfl (trial_isSquare s m true) (by rw [moduleCount]; omega)
  have hver : (t.storeTrial m (trial s m true)).succeed.tplVer = s.tplVer := h.tplVer
  have hrule := ruleMxScore_ok (s := (t.storeTrial m (trial s m true)).succeed) h0t (Nat.le_of_lt_succ hm)
  rw [hver, hread] at hrule
  have hexec := complete_ok hrule
  exact hexec

/-- The states between the commands, by the number of lanes done. -/
def evalSteps (s : State) (m : Nat) : State := (List.range m).foldl (evalStep s) s

theorem evalSteps_succ (s : State) (m : Nat) : evalSteps s (m + 1) = evalStep s (evalSteps s m) m := by
  rw [evalSteps, List.range_succ, List.foldl_append]
  rfl

/-- After the last lane the machine has reported, so that only RESULT differs from what the lanes leave. -/
theorem evalSteps_eight (s : State) : { evalSteps s 8 with result := s.result } = s.lanes.succeed := by
  have hkeeps : s.lanes.reported s.result = s.lanes.succeed := by
    rw [s.lanes_frame]
    rfl
  rw [← hkeeps, State.lanes, ← evalSteps_reported, ← evalSteps, evalSteps_succ]
  rfl

/-- Settles O33: the commands' states are those of the lanes, with a report after each. -/
theorem evalEqualsSequence : Obligations.EvalEqualsSequence := by
  intro s t h0 h40 h
  have ht : t = s.evaluated.succeed := (Host.Outcome.next.inj ((complete_ok (ruleMxEval_ok h0)).symm.trans h)).symm
  refine ⟨evalSteps s, rfl, fun m hm => ?_, ?_⟩
  · rw [evalSteps_succ]
    exact exec_trial_score h0 h40 (evalSteps_sameTrial h40 fun k hk => (List.mem_range.1 hk).trans hm) hm
  · rw [ht]
    exact congrArg (fun u : State => { u with best := s.evaluated.best }) (evalSteps_eight s).symm

end Sys2Proof.Machine

/-! The template by position (`45_matrix.md` R231-R237): finder patterns and separators fill the corners, alignment
patterns keep clear of them and of each other, and the timing patterns take what is still UNSET. -/

namespace Sys2Proof.Machine

/-! ## Cells set at integer coordinates -/

section
variable {n r c : Nat} {g : Grid}

theorem Grid.setAt_get_same (hg : g.isSquare n) (hr : r < n) (hc : c < n) (b : Byte) :
    (g.setAt (r : Int) (c : Int) b).get r c = b := by
  rw [Grid.setAt, if_pos (by omega)]
  exact Grid.get_set_same hg b hr hc

theorem Grid.setAt_get_other (g : Grid) {i j : Int} (h : ¬(i = r ∧ j = c)) (b : Byte) :
    (g.setAt i j b).get r c = g.get r c := by
  rw [Grid.setAt]
  split
  · exact g.get_set_other b (by omega)
  · rfl

theorem Grid.setAll_get_of_not_written {ws : List (Int × Int × Byte)} (h : ∀ w ∈ ws, ¬(w.1 = r ∧ w.2.1 = c)) (g : Grid) :
    (g.setAll ws).get r c = g.get r c :=
  Grid.get_foldl_of_keep (fun g w hw => g.setAt_get_other (h w hw) w.2.2) g

theorem Grid.setAll_get_of_written {ws : List (Int × Int × Byte)} (hg : g.isSquare n) (hr : r < n) (hc : c < n)
    {b : Byte} (hall : ∀ w ∈ ws, w.1 = r → w.2.1 = c → w.2.2 = b) {b' : Byte} (hw : ((r : Int), (c : Int), b') ∈ ws) :
    (g.setAll ws).get r c = b := by
  refine Grid.get_foldl_of_set (f := fun g w => g.setAt w.1 w.2.1 w.2.2)
    (fun g w hg => Grid.isSquare_setAt hg _ _ _) (fun g hg w hm => ?_) hw
    (fun g hg => (Grid.setAt_get_same hg hr hc b').trans (hall _ hw rfl rfl)) hg
  by_cases h : w.1 = r ∧ w.2.1 = c
  · rw [h.1, h.2]
    exact .inr ((Grid.setAt_get_same hg hr hc w.2.2).trans (hall w hm h.1 h.2))
  · exact .inl (g.setAt_get_other h w.2.2)

end

/-! ## Finder patterns and separators -/

theorem assigned_ite (P : Prop) [Decidable P] : Assigned (if P then 0x02 else 0x01) := by
  by_cases h : P
  · rw [if_pos h]
    exact .inr rfl
  · rw [if_neg h]
    exact .inl rfl

/-- A cell of a corner square: a finder pattern's cell, or LIGHT in its separator (`45_matrix.md` R231). -/
def cornerCell (n r c : Nat) : Byte :=
  if inCorner n 7 r c then
    if finderDark (if r < 7 then r else r - (n - 7)) (if c < 7 then c else c - (n - 7)) then 0x02 else 0x01
  else 0x01

theorem inCorner_iff (n size r c : Nat) :
    inCorner n size r c = true ↔ r < size ∧ c < size ∨ n - size ≤ r ∧ c < size ∨ r < size ∧ n - size ≤ c := by
  simp [inCorner, or_assoc]

theorem finderDark_iff (i j : Nat) :
    finderDark i j = true ↔ i = 0 ∨ i = 6 ∨ j = 0 ∨ j = 6 ∨ 2 ≤ i ∧ i ≤ 4 ∧ 2 ≤ j ∧ j ≤ 4 := by
  simp [finderDark, or_assoc, and_assoc]

/-- The DARK cells of a finder pattern, by offset. -/
theorem finderCell_eq (i j : Int) :
    finderCell i j =
      if 0 ≤ i ∧ i ≤ 6 ∧ 0 ≤ j ∧ j ≤ 6 ∧ (i = 0 ∨ i = 6 ∨ j = 0 ∨ j = 6 ∨ 2 ≤ i ∧ i ≤ 4 ∧ 2 ≤ j ∧ j ≤ 4) then 0x02
      else 0x01 := by
  by_cases hin : 0 ≤ i ∧ i ≤ 6 ∧ 0 ≤ j ∧ j ≤ 6
  · rw [finderCell, if_pos hin]
    by_cases hring : i = 0 ∨ i = 6 ∨ j = 0 ∨ j = 6
    · rw [if_pos hring, if_pos (by omega)]
      rfl
    · rw [if_neg hring]
      exact if_congr (by omega) rfl rfl
  · rw [finderCell, if_neg hin, if_neg (by omega)]
    rfl

theorem cornerCell_eq (n r c : Nat) :
    cornerCell n r c =
      if inCorner n 7 r c = true ∧
        finderDark (if r < 7 then r else r - (n - 7)) (if c < 7 then c else c - (n - 7)) = true then 0x02 else 0x01 := by
  rw [cornerCell]
  by_cases h : inCorner n 7 r c = true
  · simp only [h, true_and, if_true]
  · simp only [h, false_and, if_false, Bool.false_eq_true]

/-- The top left cells of the three finder patterns. -/
abbrev FinderAt (n R C : Nat) : Prop := R = 0 ∧ C = 0 ∨ R = n - 7 ∧ C = 0 ∨ R = 0 ∧ C = n - 7

section
variable {n R C r c : Nat} {i j : Int} (hn : 21 ≤ n) (hat : FinderAt n R C) (hr : r < n) (hc : c < n)
  (hri : (r : Int) = R + i) (hcj : (c : Int) = C + j)
include hn hat hr hc hri hcj

/-- A finder pattern with its separator puts in its corner what the corner holds. -/
theorem finderCell_eq_cornerCell (hi : -1 ≤ i ∧ i ≤ 7) (hj : -1 ≤ j ∧ j ≤ 7) :
    inCorner n 8 r c = true ∧ finderCell i j = cornerCell n r c := by
  refine ⟨(inCorner_iff n 8 r c).2 (by omega), ?_⟩
  rw [finderCell_eq, cornerCell_eq]
  refine if_congr ?_ rfl rfl
  rw [inCorner_iff, finderDark_iff]
  rcases hat with ⟨rfl, rfl⟩ | ⟨rfl, rfl⟩ | ⟨rfl, rfl⟩
  · split_ifs <;> omega
  · split_ifs <;> omega
  · split_ifs <;> omega

end

theorem mem_finderWrites {r0 c0 : Int} {w : Int × Int × Byte} :
    w ∈ finderWrites r0 c0 ↔
      ∃ i j : Int, (-1 ≤ i ∧ i ≤ 7) ∧ (-1 ≤ j ∧ j ≤ 7) ∧ w = (r0 + i, c0 + j, finderCell i j) := by
  simp only [finderWrites, List.mem_flatMap, List.mem_map, mem_intRange]
  constructor
  · rintro ⟨i, hi, j, hj, rfl⟩
    exact ⟨i, j, by omega, by omega, rfl⟩
  · rintro ⟨i, j, hi, hj, rfl⟩
    exact ⟨i, by omega, j, by omega, rfl⟩

theorem mem_allFinderWrites {n : Nat} (hn : 21 ≤ n) {w : Int × Int × Byte} :
    w ∈ allFinderWrites n ↔ ∃ R C : Nat, FinderAt n R C ∧ w ∈ finderWrites R C := by
  have hcast : ((n - 7 : Nat) : Int) = n - 7 := by omega
  simp only [allFinderWrites, List.mem_append]
  constructor
  · rintro ((h | h) | h)
    · exact ⟨0, 0, .inl ⟨rfl, rfl⟩, h⟩
    · exact ⟨n - 7, 0, .inr (.inl ⟨rfl, rfl⟩), hcast ▸ h⟩
    · exact ⟨0, n - 7, .inr (.inr ⟨rfl, rfl⟩), hcast ▸ h⟩
  · rintro ⟨R, C, ⟨rfl, rfl⟩ | ⟨rfl, rfl⟩ | ⟨rfl, rfl⟩, h⟩
    · exact .inl (.inl h)
    · exact .inl (.inr (hcast ▸ h))
    · exact .inr (hcast ▸ h)

/-- The finder patterns with their separators fill the corners and touch nothing else (`45_matrix.md` R231). -/
theorem placeFinders_get {n r c : Nat} (hn : 21 ≤ n) (hr : r < n) (hc : c < n) {g : Grid} (hg : g.isSquare n) :
    (placeFinders n g).get r c = if inCorner n 8 r c then cornerCell n r c else g.get r c := by
  have hsound : ∀ w ∈ allFinderWrites n, w.1 = r → w.2.1 = c →
      inCorner n 8 r c = true ∧ w.2.2 = cornerCell n r c := by
    intro w hw hwr hwc
    obtain ⟨R, C, hat, hw⟩ := (mem_allFinderWrites hn).1 hw
    obtain ⟨i, j, hi, hj, rfl⟩ := mem_finderWrites.1 hw
    exact finderCell_eq_cornerCell hn hat hr hc hwr.symm hwc.symm hi hj
  rw [placeFinders_eq]
  by_cases hin : inCorner n 8 r c = true
  · rw [if_pos hin]
    obtain ⟨R, C, hat, hi, hj⟩ : ∃ R C : Nat, FinderAt n R C ∧ (-1 ≤ (r : Int) - R ∧ (r : Int) - R ≤ 7) ∧
        (-1 ≤ (c : Int) - C ∧ (c : Int) - C ≤ 7) := by
      rcases (inCorner_iff n 8 r c).1 hin with h | h | h
      · exact ⟨0, 0, .inl ⟨rfl, rfl⟩, by omega, by omega⟩
      · exact ⟨n - 7, 0, .inr (.inl ⟨rfl, rfl⟩), by omega, by omega⟩
      · exact ⟨0, n - 7, .inr (.inr ⟨rfl, rfl⟩), by omega, by omega⟩
    refine Grid.setAll_get_of_written hg hr hc (fun w hw hwr hwc => (hsound w hw hwr hwc).2)
      (b' := finderCell (r - R) (c - C)) ((mem_allFinderWrites hn).2 ⟨R, C, hat, mem_finderWrites.2
        ⟨r - R, c - C, hi, hj, ?_⟩⟩)
    rw [add_sub_cancel, add_sub_cancel]
  · rw [if_neg hin]
    exact Grid.setAll_get_of_not_written (fun w hw h => hin (hsound w hw h.1 h.2).1) g

theorem cornerCell_ne_unset (n r c : Nat) : cornerCell n r c ≠ cellUnset := by
  rw [cornerCell_eq]
  exact (assigned_ite _).ne_unset

/-! ## Alignment patterns -/

/-- Whether the pattern centred at `x` holds the cell. -/
def nearCentre (x : Nat × Nat) (r c : Nat) : Bool :=
  decide (x.1 ≤ r + 2) && decide (r ≤ x.1 + 2) && decide (x.2 ≤ c + 2) && decide (c ≤ x.2 + 2)

theorem nearCentre_iff (x : Nat × Nat) (r c : Nat) :
    nearCentre x r c = true ↔ x.1 ≤ r + 2 ∧ r ≤ x.1 + 2 ∧ x.2 ≤ c + 2 ∧ c ≤ x.2 + 2 := by
  simp [nearCentre, and_assoc]

/-- A cell of the alignment pattern centred at `x` (`45_matrix.md` R233). -/
def patternCell (x : Nat × Nat) (r c : Nat) : Byte :=
  if r = x.1 + 2 ∨ x.1 = r + 2 ∨ c = x.2 + 2 ∨ x.2 = c + 2 ∨ (r = x.1 ∧ c = x.2) then 0x02 else 0x01

theorem patternCell_ne_unset (x : Nat × Nat) (r c : Nat) : patternCell x r c ≠ cellUnset := (assigned_ite _).ne_unset

/-- The cell of an alignment pattern at the offset `(i, j)` from its centre. -/
def alignmentCell (i j : Int) : Byte := cellOf (i.natAbs = 2 || j.natAbs = 2 || (i = 0 && j = 0))

theorem mem_alignmentWrites {r0 c0 : Int} {w : Int × Int × Byte} :
    w ∈ alignmentWrites r0 c0 ↔ ∃ i j : Int, (-2 ≤ i ∧ i ≤ 2) ∧ (-2 ≤ j ∧ j ≤ 2) ∧ w = (r0 + i, c0 + j, alignmentCell i j) := by
  simp only [alignmentWrites, List.mem_flatMap, List.mem_map, mem_intRange]
  constructor
  · rintro ⟨i, hi, j, hj, rfl⟩
    exact ⟨i, j, by omega, by omega, rfl⟩
  · rintro ⟨i, j, hi, hj, rfl⟩
    exact ⟨i, by omega, j, by omega, rfl⟩

/-- A pattern sets the cells near its centre, unless the centre is set. -/
theorem placeAlignment_get {n r c : Nat} (hr : r < n) (hc : c < n) {g : Grid} (hg : g.isSquare n) (x : Nat × Nat) :
    (placeAlignment g x).get r c =
      if g.get x.1 x.2 = cellUnset ∧ nearCentre x r c = true then patternCell x r c else g.get r c := by
  have hsound : ∀ w ∈ alignmentWrites x.1 x.2, w.1 = r → w.2.1 = c →
      nearCentre x r c = true ∧ w.2.2 = patternCell x r c := by
    intro w hw hwr hwc
    obtain ⟨i, j, hi, hj, rfl⟩ := mem_alignmentWrites.1 hw
    dsimp only at hwr hwc
    refine ⟨(nearCentre_iff x r c).2 (by omega), ?_⟩
    rw [patternCell]
    refine if_congr ?_ rfl rfl
    simp only [Bool.or_eq_true, Bool.and_eq_true, decide_eq_true_iff]
    omega
  rw [placeAlignment]
  by_cases h0 : g.get x.1 x.2 = cellUnset
  · rw [if_pos h0]
    by_cases hnear : nearCentre x r c = true
    · rw [if_pos ⟨h0, hnear⟩]
      have hin := (nearCentre_iff x r c).1 hnear
      refine Grid.setAll_get_of_written hg hr hc (fun w hw hwr hwc => (hsound w hw hwr hwc).2)
        (b' := alignmentCell (r - x.1) (c - x.2))
        (mem_alignmentWrites.2 ⟨r - x.1, c - x.2, by omega, by omega, ?_⟩)
      rw [add_sub_cancel, add_sub_cancel]
    · rw [if_neg fun h => hnear h.2]
      exact Grid.setAll_get_of_not_written (fun w hw h => hnear (hsound w hw h.1 h.2).1) g
  · rw [if_neg h0, if_neg fun h => h0 h.1]

/-- Alignment patterns whose centres are far enough apart do not overlap, so each cell is that of the pattern near it,
if that is placed. -/
theorem placeAlignments_get {n r c : Nat} (hr : r < n) (hc : c < n) {centres : List (Nat × Nat)}
    (hin : ∀ x ∈ centres, x.1 < n ∧ x.2 < n)
    (hfar : centres.Pairwise fun x y => x.1 + 5 ≤ y.1 ∨ x.1 = y.1 ∧ x.2 + 5 ≤ y.2) {g : Grid} (hg : g.isSquare n) :
    (centres.foldl placeAlignment g).get r c =
      match centres.find? fun x => decide (g.get x.1 x.2 = cellUnset) && nearCentre x r c with
      | some x => patternCell x r c
      | none => g.get r c := by
  induction centres generalizing g with
  | nil => rfl
  | cons y rest ih =>
    obtain ⟨hy, hin⟩ := List.forall_mem_cons.1 hin
    obtain ⟨hyfar, hfar⟩ := List.pairwise_cons.1 hfar
    have hcell := placeAlignment_get hr hc hg y
    have hcentres : (rest.find? fun x => decide ((placeAlignment g y).get x.1 x.2 = cellUnset) && nearCentre x r c) =
        rest.find? fun x => decide (g.get x.1 x.2 = cellUnset) && nearCentre x r c := by
      refine List.find?_congr fun x hx => ?_
      have hx' := hyfar x hx
      rw [placeAlignment_get (hin x hx).1 (hin x hx).2 hg y, if_neg]
      rintro ⟨-, hnear⟩
      have hnear := (nearCentre_iff y x.1 x.2).1 hnear
      omega
    rw [List.foldl_cons, ih hin hfar (placeAlignment_isSquare hg y), hcentres, List.find?_cons]
    by_cases hset : g.get y.1 y.2 = cellUnset ∧ nearCentre y r c = true
    · have hnone : (rest.find? fun x => decide (g.get x.1 x.2 = cellUnset) && nearCentre x r c) = none := by
        refine List.find?_eq_none.2 fun x hx h => ?_
        have hx' := hyfar x hx
        have hy' := (nearCentre_iff y r c).1 hset.2
        have hnear := (nearCentre_iff x r c).1 (Bool.and_eq_true_iff.1 h).2
        omega
      rw [hnone, hcell, if_pos hset, decide_eq_true hset.1, hset.2]
      rfl
    · have hfalse : (decide (g.get y.1 y.2 = cellUnset) && nearCentre y r c) = false := by
        rw [← Bool.not_eq_true, Bool.and_eq_true_iff, decide_eq_true_iff]
        exact hset
      rw [hfalse, hcell, if_neg hset]

/-! ## The default positions -/

/-- A list of alignment positions of a symbol with `n` columns, as R232 spaces them: rising, far apart, and but for the
first and the last clear of the corners. -/
abbrev PositionsSpaced (n : Nat) (positions : List Nat) : Prop :=
  positions.Pairwise (fun a b => a + 5 ≤ b) ∧ ∀ a ∈ positions, a = 6 ∨ a + 7 = n ∨ 10 ≤ a ∧ a + 11 ≤ n

theorem default_positionsSpaced : ∀ v ∈ List.range' 1 40,
    PositionsSpaced (4 * v + 17) (Params.default.alignments v) := by decide

/-- Every pair of positions, rows outer (`45_matrix.md` R233). -/
def centres (p : Params) (v : Nat) : List (Nat × Nat) :=
  (p.alignments v).flatMap fun a => (p.alignments v).map fun b => (a, b)

theorem mem_centres {p : Params} {v : Nat} {x : Nat × Nat} :
    x ∈ centres p v ↔ x.1 ∈ p.alignments v ∧ x.2 ∈ p.alignments v := by
  obtain ⟨a, b⟩ := x
  simp [centres]

theorem centres_far {p : Params} {v : Nat} (h : (p.alignments v).Pairwise fun a b => a + 5 ≤ b) :
    (centres p v).Pairwise fun x y => x.1 + 5 ≤ y.1 ∨ x.1 = y.1 ∧ x.2 + 5 ≤ y.2 := by
  refine List.pairwise_flatMap.2 ⟨fun a _ => List.pairwise_map.2 (h.imp fun hab => .inr ⟨rfl, hab⟩), h.imp ?_⟩
  intro a b hab x hx y hy
  obtain ⟨_, _, rfl⟩ := List.mem_map.1 hx
  obtain ⟨_, _, rfl⟩ := List.mem_map.1 hy
  exact .inl hab

/-- No alignment pattern reaches into a corner. -/
theorem not_inCorner_of_nearCentre {n r c : Nat} (hn : 21 ≤ n) {positions : List Nat}
    (h : PositionsSpaced n positions) {x : Nat × Nat} (hx : x.1 ∈ positions ∧ x.2 ∈ positions)
    (hout : ¬inCorner n 8 x.1 x.2 = true) (hnear : nearCentre x r c = true) : ¬inCorner n 8 r c = true := by
  have h1 := h.2 _ hx.1
  have h2 := h.2 _ hx.2
  rw [inCorner_iff] at hout ⊢
  have hnear := (nearCentre_iff x r c).1 hnear
  omega

/-! ## Timing patterns -/

theorem setUnset_get_other {i j r c : Nat} (h : ¬(r = i ∧ c = j)) (g : Grid) (b : Byte) :
    (g.setUnset i j b).get r c = g.get r c := by
  rw [Grid.setUnset]
  split
  · exact g.get_set_other b (by omega)
  · rfl

theorem setUnset_get {n r c : Nat} (hr : r < n) (hc : c < n) {g : Grid} (hg : g.isSquare n) (i j : Nat) (b : Byte) :
    (g.setUnset i j b).get r c = if (r = i ∧ c = j) ∧ g.get r c = cellUnset then b else g.get r c := by
  by_cases h : r = i ∧ c = j
  · obtain ⟨rfl, rfl⟩ := h
    rw [Grid.setUnset]
    by_cases h0 : g.get r c = cellUnset
    · rw [if_pos h0, if_pos ⟨⟨rfl, rfl⟩, h0⟩, Grid.get_set_same hg b hr hc]
    · rw [if_neg h0, if_neg fun h => h0 h.2]
  · rw [if_neg fun h' => h h'.1, setUnset_get_other h]

theorem timingStep_isSquare {n : Nat} {g : Grid} (hg : g.isSquare n) (i : Nat) : (timingStep g i).isSquare n :=
  Grid.isSquare_setUnset (Grid.isSquare_setUnset hg _ _ _) _ _ _

/-- The two cells of an index of the timing patterns. -/
abbrev OnTiming (i r c : Nat) : Prop := r = i ∧ c = 6 ∨ r = 6 ∧ c = i

theorem timingStep_get {n r c : Nat} (hr : r < n) (hc : c < n) {g : Grid} (hg : g.isSquare n) (i : Nat) :
    (timingStep g i).get r c =
      if OnTiming i r c ∧ g.get r c = cellUnset then cellOf (i % 2 = 0) else g.get r c := by
  have hset := (assigned_cellOf (decide (i % 2 = 0))).ne_unset
  have hcolumn := setUnset_get hr hc hg i 6 (cellOf (i % 2 = 0))
  rw [timingStep, setUnset_get hr hc (Grid.isSquare_setUnset hg _ _ _)]
  by_cases hat : (r = i ∧ c = 6) ∧ g.get r c = cellUnset
  · rw [hcolumn, if_pos hat, if_neg fun h => hset h.2, if_pos ⟨.inl hat.1, hat.2⟩]
  · rw [hcolumn, if_neg hat]
    exact if_congr (by rw [OnTiming, or_and_right, or_iff_right hat]) rfl rfl

/-- A cell of a timing pattern that is still UNSET is DARK at an even index, LIGHT at an odd one (`45_matrix.md` R236). -/
theorem foldl_timingStep_get {n r c i : Nat} (hr : r < n) (hc : c < n) (hat : OnTiming i r c)
    (xs : List Nat) {g : Grid} (hg : g.isSquare n) :
    (xs.foldl timingStep g).get r c = if g.get r c = cellUnset ∧ i ∈ xs then cellOf (i % 2 = 0) else g.get r c := by
  have hset := (assigned_cellOf (decide (i % 2 = 0))).ne_unset
  induction xs generalizing g with
  | nil => rw [if_neg fun h => List.not_mem_nil h.2, List.foldl_nil]
  | cons x rest ih =>
    have hstep := timingStep_get hr hc hg x
    rw [List.foldl_cons, ih (timingStep_isSquare hg x)]
    by_cases hx : i = x
    · subst hx
      by_cases h0 : g.get r c = cellUnset
      · rw [hstep.trans (if_pos ⟨hat, h0⟩), if_neg fun h => hset h.1, if_pos ⟨h0, List.mem_cons_self⟩]
      · rw [hstep.trans (if_neg fun h => h0 h.2), if_neg fun h => h0 h.1, if_neg fun h => h0 h.1]
    · have hoff : ¬OnTiming x r c := by omega
      rw [hstep.trans (if_neg fun h => hoff h.1)]
      exact if_congr (by rw [List.mem_cons, or_iff_right hx]) rfl rfl

/-- A cell that no index of the timing patterns has stays. -/
theorem placeTiming_get_other {n r c : Nat} (h : ∀ i, 8 ≤ i → i < n - 8 → ¬OnTiming i r c) (g : Grid) :
    (placeTiming n g).get r c = g.get r c := by
  rw [placeTiming_eq]
  refine Grid.get_foldl_of_keep (fun g i hi => ?_) g
  have hi := List.mem_range'_1.1 hi
  have hoff := h i hi.1 (by omega)
  rw [timingStep, setUnset_get_other fun h => hoff (.inr h), setUnset_get_other fun h => hoff (.inl h)]

/-- Timing patterns fill what is UNSET of row 6 and column 6 between the corners and touch nothing else. -/
theorem placeTiming_get {n r c : Nat} (hr : r < n) (hc : c < n) (hout : ¬inCorner n 8 r c = true) {g : Grid}
    (hg : g.isSquare n) :
    (placeTiming n g).get r c =
      if g.get r c = cellUnset then
        if c = 6 then cellOf (r % 2 = 0) else if r = 6 then cellOf (c % 2 = 0) else cellUnset
      else g.get r c := by
  rw [inCorner_iff] at hout
  rw [placeTiming_eq]
  by_cases h6 : c = 6
  · have hr8 : r ∈ List.range' 8 (n - 16) := by
      rw [List.mem_range'_1]
      omega
    rw [if_pos h6, foldl_timingStep_get hr hc (.inl ⟨rfl, h6⟩) _ hg]
    exact if_congr (and_iff_left hr8) rfl rfl
  · rw [if_neg h6]
    by_cases h6' : r = 6
    · have hc8 : c ∈ List.range' 8 (n - 16) := by
        rw [List.mem_range'_1]
        omega
      rw [if_pos h6', foldl_timingStep_get hr hc (.inr ⟨h6', rfl⟩) _ hg]
      exact if_congr (and_iff_left hc8) rfl rfl
    · rw [← placeTiming_eq, placeTiming_get_other (fun i _ _ => by omega), if_neg h6']
      exact (ite_eq_right_iff.2 fun h => h.symm).symm

/-! ## The template -/

theorem placeFinders_eq_unset_iff {n r c : Nat} (hn : 21 ≤ n) (hr : r < n) (hc : c < n) :
    (placeFinders n (blankGrid n)).get r c = cellUnset ↔ ¬inCorner n 8 r c = true := by
  rw [placeFinders_get hn hr hc (blankGrid_isSquare n)]
  by_cases h : inCorner n 8 r c = true
  · rw [if_pos h]
    exact iff_of_false (cornerCell_ne_unset n r c) (not_not_intro h)
  · rw [if_neg h]
    exact iff_of_true (blankGrid_get n r c) h

section
variable {p : Params} {v r c : Nat} (hn : 21 ≤ moduleCount v)
  (hspaced : PositionsSpaced (moduleCount v) (p.alignments v)) (hr : r < moduleCount v) (hc : c < moduleCount v)
include hn hspaced

theorem lt_moduleCount_of_mem_centres {x : Nat × Nat} (hx : x ∈ centres p v) :
    x.1 < moduleCount v ∧ x.2 < moduleCount v := by
  have h1 := hspaced.2 _ (mem_centres.1 hx).1
  have h2 := hspaced.2 _ (mem_centres.1 hx).2
  omega

/-- The patterns placed are those R233 lists. -/
theorem find_centre_eq_alignmentCentre :
    ((centres p v).find? fun x =>
      decide ((placeFinders (moduleCount v) (blankGrid (moduleCount v))).get x.1 x.2 = cellUnset) && nearCentre x r c) =
      alignmentCentre p v r c := by
  refine List.find?_congr fun x hx => ?_
  obtain ⟨h1, h2⟩ := lt_moduleCount_of_mem_centres hn hspaced hx
  simp only [placeFinders_eq_unset_iff hn h1 h2, nearCentre, Bool.and_assoc, Bool.not_eq_true, Bool.decide_eq_false]

/-- No alignment pattern reaches into a corner. -/
theorem alignmentCentre_corner (h : inCorner (moduleCount v) 8 r c = true) : alignmentCentre p v r c = none := by
  rw [← find_centre_eq_alignmentCentre hn hspaced]
  refine List.find?_eq_none.2 fun x hx hfound => ?_
  obtain ⟨hunset, hnear⟩ := Bool.and_eq_true_iff.1 hfound
  obtain ⟨h1, h2⟩ := lt_moduleCount_of_mem_centres hn hspaced hx
  exact not_inCorner_of_nearCentre hn hspaced (mem_centres.1 hx)
    ((placeFinders_eq_unset_iff hn h1 h2).1 (of_decide_eq_true hunset)) hnear h

include hr hc

/-- Finder and alignment patterns by position. -/
theorem patternGrid_get :
    (patternGrid p v).get r c =
      if inCorner (moduleCount v) 8 r c then cornerCell (moduleCount v) r c
      else match alignmentCentre p v r c with
        | some x => patternCell x r c
        | none => cellUnset := by
  have hplaced : (patternGrid p v).get r c = _ :=
    placeAlignments_get hr hc (fun x hx => lt_moduleCount_of_mem_centres hn hspaced hx) (centres_far hspaced.1)
      (Grid.isSquare_setAll (blankGrid_isSquare _) _)
  rw [hplaced, find_centre_eq_alignmentCentre hn hspaced]
  by_cases h : inCorner (moduleCount v) 8 r c = true
  · rw [if_pos h, alignmentCentre_corner hn hspaced h]
    exact (placeFinders_get hn hr hc (blankGrid_isSquare _)).trans (if_pos h)
  · rw [if_neg h]
    cases alignmentCentre p v r c with
    | some x => rfl
    | none => exact (placeFinders_eq_unset_iff hn hr hc).2 h

/-- The template by position (`45_matrix.md` R237). -/
theorem template_get : (template p v).get r c = templateCell p v r c := by
  have hpattern := patternGrid_get hn hspaced hr hc
  rw [template_eq, templateCell]
  by_cases h : inCorner (moduleCount v) 8 r c = true
  · have hoff : ∀ i, 8 ≤ i → i < moduleCount v - 8 → ¬OnTiming i r c := by
      rw [inCorner_iff] at h
      omega
    rw [placeTiming_get_other hoff, hpattern, if_pos h, cornerCell, if_pos h]
  · have h7 : ¬inCorner (moduleCount v) 7 r c = true := by
      rw [inCorner_iff] at h ⊢
      omega
    rw [placeTiming_get hr hc h (patternGrid_isSquare p v), hpattern, if_neg h, if_neg h7, if_neg h]
    cases alignmentCentre p v r c with
    | some x => exact if_neg (patternCell_ne_unset x r c)
    | none =>
      refine (if_pos rfl).trans ?_
      simp only [cellOf, decide_eq_true_iff]
      rfl

end

/-! ## MX_TEMPLATE -/

theorem ruleMxTemplate_ok {s : State} (h1 : 1 ≤ s.resVersion.toNat) (h40 : s.resVersion.toNat ≤ 40) :
    ruleMxTemplate s =
      .ok { s.storeTpl (template s.params s.resVersion.toNat) with tplVer := s.resVersion } := by
  rw [ruleMxTemplate, checkVersion_eq_ok.2 ⟨h1, h40⟩]

theorem ruleMxTemplate_error {s : State} (h : s.resVersion.toNat = 0 ∨ 40 < s.resVersion.toNat) :
    ruleMxTemplate s = .error .rangeVersion := by rw [ruleMxTemplate, checkVersion_of_range h]

/-- Settles O28: finders fill the corners, alignment patterns stay clear of them and of each other, and timing patterns
take what is UNSET, so each cell of the stored template is what its position says. -/
theorem mxTemplateResult : Obligations.MxTemplateResult := by
  refine ⟨fun s h1 h40 => ?_, fun s h => complete_error (ruleMxTemplate_error h),
    illegalWhere_of_rows (by simp [opcodeRows])⟩
  have hexec := complete_ok (ruleMxTemplate_ok h1 h40)
  refine ⟨_, hexec, rfl, fun hp r c hr hc => ?_, fun a ha => State.byteAt_storeTpl_outside s _ ha⟩
  have hspaced : PositionsSpaced (moduleCount s.resVersion.toNat) (s.params.alignments s.resVersion.toNat) :=
    hp ▸ default_positionsSpaced _ (List.mem_range'_1.2 (by omega))
  have hn : moduleCount s.resVersion.toNat = 4 * s.resVersion.toNat + 17 := rfl
  rw [← hn] at hr hc
  exact (State.cell_of_matrixMem (.inl rfl) rfl (template_isSquare _ _) (by omega) hr hc).trans
    (template_get (by omega) hspaced hr hc)

end Sys2Proof.Machine

/-! ENCODE is a function of its inputs (`45_matrix.md` R267, `46_encoder.md` R285): two runs from states that agree on
the inputs agree, step for step, on all that the later steps read. -/

namespace Sys2Proof.Machine

/-! ## Two runs side by side -/

/-- Both rules fail with the same error, or both succeed with related states. -/
inductive SameOutcome (Q : State → State → Prop) : Except ErrCode State → Except ErrCode State → Prop
  | error (e : ErrCode) : SameOutcome Q (.error e) (.error e)
  | ok {u v : State} (h : Q u v) : SameOutcome Q (.ok u) (.ok v)

/-- Both runs end with the same error, or both run through and reach related states. -/
inductive SameEnd (Q : State → State → Prop) : State × Option ErrCode → State × Option ErrCode → Prop
  | failed (u v : State) (e : ErrCode) : SameEnd Q (u, some e) (v, some e)
  | done {u v : State} (h : Q u v) : SameEnd Q (u, none) (v, none)

section
variable {P Q R : State → State → Prop} {s t : State}

theorem runSteps_cons_sameEnd {rule : Rule} {rest : List Rule} (h : SameOutcome P (rule s) (rule t))
    (hrest : ∀ u v, P u v → SameEnd R (runSteps rest u) (runSteps rest v)) :
    SameEnd R (runSteps (rule :: rest) s) (runSteps (rule :: rest) t) := by
  rw [runSteps, runSteps]
  generalize rule s = x, rule t = y at h ⊢
  cases h with
  | error e => exact .failed s t e
  | ok h => exact hrest _ _ h

/-- Steps that keep a relation, and then further ones. -/
theorem runSteps_append_sameEnd {steps rest : List Rule} (hs : P s t)
    (hkeep : ∀ rule ∈ steps, ∀ u v, P u v → SameOutcome P (rule u) (rule v))
    (hrest : ∀ u v, P u v → SameEnd R (runSteps rest u) (runSteps rest v)) :
    SameEnd R (runSteps (steps ++ rest) s) (runSteps (steps ++ rest) t) := by
  induction steps generalizing s t with
  | nil => exact hrest s t hs
  | cons rule steps ih =>
    obtain ⟨hrule, hkeep⟩ := List.forall_mem_cons.1 hkeep
    exact runSteps_cons_sameEnd (hrule s t hs) fun u v huv => ih huv hkeep

end

/-! ## The inputs -/

/-- Two states that agree on the encoder's inputs, with parameters that fit the map. -/
structure State.SameInputs (s t : State) : Prop where
  fits : s.params.Fits
  inputs : s.sameEncoderInputs t

theorem State.sameEncoderInputs_of_effect {s u : State} {i : Instr} (hfit : s.params.Fits) (h : Effect s i u) :
    s.sameEncoderInputs u := by
  have hbyte : ∀ a, a < 0x003000 ∨ 0x004000 ≤ a ∧ a < 0x005000 → u.byteAt a = s.byteAt a := fun a ha =>
    h.sameOutside a (footprint_not_host hfit i ha)
  refine ⟨?_, ?_, ?_, ?_, ?_, fun k hk => hbyte _ (.inl (by omega)), fun k hk => hbyte _ (.inr (by omega))⟩
  all_goals
    rw [h.frame]
    rfl

theorem State.sameEncoderInputs_symm {s t : State} (h : s.sameEncoderInputs t) : t.sameEncoderInputs s := by
  obtain ⟨hp, hn, hv, hl, hm, hdesc, hdata⟩ := h
  exact ⟨hp.symm, hn.symm, hv.symm, hl.symm, hm.symm, fun i hi => (hdesc i hi).symm, fun i hi => (hdata i hi).symm⟩

theorem State.sameEncoderInputs_trans {s t u : State} (h : s.sameEncoderInputs t) (h' : t.sameEncoderInputs u) :
    s.sameEncoderInputs u := by
  obtain ⟨hp, hn, hv, hl, hm, hdesc, hdata⟩ := h
  obtain ⟨hp', hn', hv', hl', hm', hdesc', hdata'⟩ := h'
  exact ⟨hp'.trans hp, hn'.trans hn, hv'.trans hv, hl'.trans hl, hm'.trans hm,
    fun i hi => (hdesc' i hi).trans (hdesc i hi), fun i hi => (hdata' i hi).trans (hdata i hi)⟩

namespace State.SameInputs
variable {s t u v : State} (h : s.SameInputs t)
include h

theorem params : t.params = s.params := h.inputs.1

theorem cfgLevel : t.cfgLevel = s.cfgLevel := by
  obtain ⟨-, -, -, hl, -⟩ := h.inputs
  exact hl

/-- No command writes the inputs. -/
theorem of_effects {i j : Instr} (hu : Effect s i u) (hv : Effect t j v) : u.SameInputs v := by
  have hsu := State.sameEncoderInputs_of_effect h.fits hu
  have htv := State.sameEncoderInputs_of_effect (h.params ▸ h.fits) hv
  exact ⟨hsu.1 ▸ h.fits,
    State.sameEncoderInputs_trans (State.sameEncoderInputs_trans (State.sameEncoderInputs_symm hsu) h.inputs) htv⟩

/-! ## VER_SELECT -/

theorem descriptor_eq {i : Nat} (hi : i < 16) : descriptor t i = descriptor s i := by
  obtain ⟨-, -, -, -, -, hdesc, -⟩ := h.inputs
  have hbyte : ∀ k, k < 5 → t.byteAt (Window.segDesc.base + 8 * i + k) = s.byteAt (Window.segDesc.base + 8 * i + k) := by
    intro k hk
    rw [Nat.add_assoc]
    exact hdesc (8 * i + k) (by omega)
  simp only [descriptor, hbyte 0 (by omega), hbyte 1 (by omega), hbyte 2 (by omega), hbyte 3 (by omega),
    hbyte 4 (by omega)]

theorem fetchSegment_eq {i : Nat} (hi : i < 16) : fetchSegment t i = fetchSegment s i := by
  obtain ⟨-, -, hdata, -, -⟩ := h.fits
  obtain ⟨-, -, -, -, -, -, hbyte⟩ := h.inputs
  simp only [fetchSegment, h.descriptor_eq hi, h.params]
  cases descriptorMode (descriptor s i).mode with
  | error e => rfl
  | ok mode =>
    by_cases hb : s.params.dataMax < (descriptor s i).offset + (descriptor s i).count
    · simp only [if_pos hb]
    · have hbytes := bytesAt_congr (s := s) (t := t) (base := Window.data.base + (descriptor s i).offset)
        (len := (descriptor s i).count) fun k hk => by
          rw [Nat.add_assoc]
          exact hbyte _ (by omega)
      simp only [if_neg hb, hbytes]

theorem loadSegment_eq {i : Nat} (hi : i < 16) : loadSegment t i = loadSegment s i := by
  rw [loadSegment, loadSegment, h.fetchSegment_eq hi]

theorem loadSegments_eq {is : List Nat} (his : ∀ i ∈ is, i < 16) : loadSegments t is = loadSegments s is := by
  induction is with
  | nil => rfl
  | cons i rest ih =>
    obtain ⟨hi, hrest⟩ := List.forall_mem_cons.1 his
    rw [loadSegments, loadSegments, h.loadSegment_eq hi, ih hrest]

theorem validate_eq : validate t = validate s := by
  obtain ⟨hp, hn, hv, -, hm, -, -⟩ := h.inputs
  obtain ⟨-, -, -, hseg, -⟩ := h.fits
  simp only [validate, hp, hn, hv, hm]
  by_cases hshape : s.nseg = 0 ∨ s.params.segMax < s.nseg.toNat
  · rw [if_pos hshape, if_pos hshape]
  · rw [if_neg hshape, if_neg hshape, h.loadSegments_eq fun i hi => ?_]
    have := List.mem_range.1 hi
    omega

theorem chooseVersion_eq (gs : List Segment) : chooseVersion t gs = chooseVersion s gs := by
  obtain ⟨hp, -, hv, hl, hm, -, -⟩ := h.inputs
  simp only [chooseVersion, search, hp, hv, hl, hm]

end State.SameInputs

/-- Two states that agree on the inputs and on the resolved version and mode. -/
structure State.SameVersion (s t : State) : Prop extends s.SameInputs t where
  resVersion : t.resVersion = s.resVersion
  resMode : t.resMode = s.resMode

theorem nseg_le_of_validate {s : State} {gs : List Segment} (h : validate s = .ok gs) :
    s.nseg.toNat ≤ s.params.segMax := by
  rw [validate] at h
  by_contra hlt
  rw [if_pos (.inr (Nat.lt_of_not_le hlt))] at h
  cases h

theorem ruleVerSelect_same {s t : State} (h : s.SameInputs t) :
    SameOutcome (fun u v => u.SameVersion v ∧ s.nseg.toNat ≤ 16) (ruleVerSelect s) (ruleVerSelect t) := by
  obtain ⟨-, -, -, hseg, -⟩ := h.fits
  have heffect := fun u v (hu : ruleVerSelect s = .ok u) (hv : ruleVerSelect t = .ok v) =>
    h.of_effects (ruleVerSelect_effect hu) (ruleVerSelect_effect hv)
  rw [ruleVerSelect, ruleVerSelect, h.validate_eq] at heffect ⊢
  cases hvalid : validate s with
  | error e => exact .error e
  | ok gs =>
    rw [hvalid] at heffect
    dsimp only at heffect ⊢
    rw [h.chooseVersion_eq gs] at heffect ⊢
    cases hversion : chooseVersion s gs with
    | error e => exact .error e
    | ok n =>
      rw [hversion] at heffect
      exact .ok ⟨⟨heffect _ _ rfl rfl, rfl, rfl⟩, (nseg_le_of_validate hvalid).trans hseg⟩

/-! ## The bit buffer -/

/-- Two states that agree on the inputs, the resolved version, and the bit buffer. -/
structure State.SameBits (s t : State) : Prop extends s.SameVersion t where
  bitLen : t.bitLen = s.bitLen
  bounded : s.bitLen.toNat ≤ s.params.bbMaxBits
  bytes : ∀ k, k < s.params.bbBytes → t.byteAt (0x005000 + k) = s.byteAt (0x005000 + k)

/-- A command that is not VER_SELECT keeps the agreement on the resolved version. -/
theorem State.SameVersion.of_effects {s t u v : State} {i j : Instr} (h : s.SameVersion t) (hu : Effect s i u)
    (hv : Effect t j v) (hi : i ≠ .verSelect) (hj : j ≠ .verSelect) : u.SameVersion v := by
  obtain ⟨hsv, hsm⟩ := hu.res_eq hi
  obtain ⟨htv, htm⟩ := hv.res_eq hj
  exact ⟨h.toSameInputs.of_effects hu hv, htv.trans (h.resVersion.trans hsv.symm), htm.trans (h.resMode.trans hsm.symm)⟩

theorem byteAt_cleared {s : State} (hfit : s.params.Fits) {k : Nat} (hk : k < s.params.bbBytes) :
    ({ s with mem := Memory.replace s.mem Window.bb.base s.params.bbBytes [], bitLen := 0 } : State).byteAt
      (0x005000 + k) = 0 := by
  obtain ⟨-, hbb, -⟩ := hfit
  have hlt : k < 4096 := by
    rw [Params.bbBytes] at hk
    omega
  exact State.byteAt_bb_unlisted (by omega)
    (Memory.lookup_replace_inside s.mem [] ⟨Nat.le_add_right _ k, Nat.add_lt_add_left hk _⟩)

theorem ruleBbClear_same {s t : State} (h : s.SameVersion t) :
    SameOutcome State.SameBits (ruleBbClear s) (ruleBbClear t) := by
  refine .ok ⟨h.of_effects .clear .clear nofun nofun, rfl, Nat.zero_le _, fun k hk => ?_⟩
  have hk' : k < t.params.bbBytes := h.params ▸ hk
  exact (byteAt_cleared (h.params ▸ h.fits) hk').trans (byteAt_cleared h.fits hk).symm

namespace State.SameBits
variable {s t : State} (h : s.SameBits t)
include h

theorem putBit (b : Bool) (hroom : s.bitLen.toNat < s.params.bbMaxBits) : (s.putBit b).SameBits (t.putBit b) := by
  obtain ⟨-, hbb, -⟩ := h.fits
  have hlt : s.bitLen.toNat < 32768 := hroom.trans_le hbb
  have hroom' : t.bitLen.toNat + [b].length ≤ t.params.bbMaxBits := by
    rw [h.bitLen, h.params]
    exact hroom
  refine ⟨h.toSameVersion.of_effects (i := .bbPut 1) (j := .bbPut 1) (.append rfl [b] (.inr hroom))
    (.append rfl [b] (.inr hroom')) nofun nofun, ?_, ?_, fun k hk => ?_⟩
  · rw [State.putBit_bitLen, State.putBit_bitLen, h.bitLen]
  · rw [State.putBit_bitLen_toNat s b hlt]
    exact hroom
  · have hbytes := h.bytes k hk
    by_cases hlast : k = s.bitLen.toNat / 8
    · have hsame := State.byteAt_putBit_same t b (h.bitLen ▸ hlt)
      rw [h.bitLen, ← hlast, hbytes] at hsame
      rw [hsame, hlast]
      exact (State.byteAt_putBit_same s b hlt).symm
    · rw [State.byteAt_putBit_other s b (by omega), State.byteAt_putBit_other t b (by rw [h.bitLen]; omega), hbytes]

theorem putBits {bits : List Bool} (hroom : s.bitLen.toNat + bits.length ≤ s.params.bbMaxBits) :
    (s.putBits bits).SameBits (t.putBits bits) := by
  obtain ⟨-, hbb, -⟩ := h.fits
  induction bits generalizing s t with
  | nil => exact h
  | cons b rest ih =>
    rw [List.length_cons] at hroom
    refine ih (h.putBit b (by omega)) ?_ (h.putBit b (by omega)).fits.2.1
    have hlen := State.putBit_bitLen_toNat s b (by omega)
    rw [hlen]
    show s.bitLen.toNat + 1 + rest.length ≤ s.params.bbMaxBits
    omega

theorem bbOverflows_eq (count : Nat) : bbOverflows t count = bbOverflows s count := by
  rw [bbOverflows, bbOverflows, h.params, h.bitLen]

theorem encodeCapacity_eq : encodeCapacity t = encodeCapacity s := by
  rw [encodeCapacity, encodeCapacity, h.params, h.resVersion, h.cfgLevel]

theorem ruleSegWrite_same {i : Nat} (hi : i < 16) :
    SameOutcome State.SameBits (ruleSegWrite i s) (ruleSegWrite i t) := by
  rw [ruleSegWrite, ruleSegWrite, h.loadSegment_eq hi, h.params, h.resVersion]
  cases loadSegment s i with
  | error e => exact .error e
  | ok g =>
    dsimp only
    cases lenBits s.params g.mode s.resVersion.toNat with
    | error e => exact .error e
    | ok w =>
      dsimp only
      rw [h.bbOverflows_eq]
      split
      · exact .error _
      · rename_i hb
        exact .ok (h.putBits (by rw [segmentBits_length]; exact not_bbOverflows hb))

theorem ruleBbEom_same (max : Nat) : SameOutcome State.SameBits (ruleBbEom max s) (ruleBbEom max t) := by
  rw [ruleBbEom, ruleBbEom, h.bitLen, h.bbOverflows_eq]
  split
  · split
    · exact .error _
    · rename_i hb
      exact .ok (h.putBits (by rw [bitsOf_length]; exact not_bbOverflows hb))
  · exact .ok h

theorem ruleBbPad_same (target : Nat) : SameOutcome State.SameBits (ruleBbPad target s) (ruleBbPad target t) := by
  simp only [ruleBbPad, h.bitLen, h.params]
  split
  · exact .error _
  · rename_i hroom
    rw [← State.putBits_append, ← State.putBits_append]
    refine .ok (h.putBits ?_)
    have halign : s.bitLen.toNat ≤ alignUp8 s.bitLen.toNat := by
      rw [alignUp8]
      omega
    rw [List.length_append, List.length_replicate, padBits_length]
    omega

end State.SameBits

/-! ## RS_ASSEMBLE -/

/-- Two states that agree on the inputs, the resolved version, and the codewords of a buffer of one length. -/
structure State.SameCodewords (s t : State) : Prop extends s.SameVersion t where
  bitLen : t.bitLen = s.bitLen
  cwLen : t.cwLen = s.cwLen
  bounded : s.cwLen.toNat ≤ 4096
  codewords : codewordBits t = codewordBits s

theorem splitData_lengths {blocks : List Block} {bytes : List Byte} (h : bytes.length = (blocks.map Block.data).sum) :
    (splitData blocks bytes).map List.length = blocks.map Block.data := by
  induction blocks generalizing bytes with
  | nil => rfl
  | cons b rest ih =>
    rw [List.map_cons, List.sum_cons] at h
    rw [splitData, List.map_cons, List.map_cons, List.length_take, ih (by rw [List.length_drop]; omega)]
    congr 1
    omega

theorem length_of_errorCodewords {data c : List Byte} {e : Nat} (h : errorCodewords data e = .ok c) : e ≤ c.length := by
  rw [errorCodewords] at h
  split at h
  · cases h
  · split at h
    · cases h
    · cases h
      rw [List.length_append, List.length_replicate]
      omega

/-- Every block has at least its error codewords. -/
theorem sum_error_le {blocks : List Block} {ds ecs : List (List Byte)} (hlen : ds.length = blocks.length)
    (h : allErrorCodewords blocks ds = .ok ecs) : (blocks.map Block.error).sum ≤ (ecs.map List.length).sum := by
  induction blocks generalizing ds ecs with
  | nil => exact Nat.zero_le _
  | cons b rest ih =>
    obtain ⟨d, ds, rfl⟩ := List.exists_cons_of_length_eq_add_one hlen
    rw [allErrorCodewords] at h
    split at h
    · rename_i c cs hc hcs
      cases h
      have hb := length_of_errorCodewords hc
      have hrest := ih (Nat.succ.inj hlen) hcs
      simp only [List.map_cons, List.sum_cons]
      omega
    · cases h
    · cases h

theorem totalCodewords_le_data_add_error (blocks : List Block) :
    totalCodewords blocks ≤ (blocks.map Block.data).sum + (blocks.map Block.error).sum := by
  induction blocks with
  | nil => exact Nat.zero_le _
  | cons b rest ih =>
    rw [totalCodewords] at ih ⊢
    simp only [List.map_cons, List.sum_cons, Block.error]
    omega

/-- RS_ASSEMBLE stores no fewer codewords than it counts. -/
theorem totalCodewords_le_interleave {blocks : List Block} {bytes : List Byte} {ecs : List (List Byte)}
    (hlen : bytes.length = capacity blocks / 8) (h : allErrorCodewords blocks (splitData blocks bytes) = .ok ecs) :
    totalCodewords blocks ≤ (interleave (splitData blocks bytes) ecs).length := by
  have hbytes : bytes.length = (blocks.map Block.data).sum := by
    rw [hlen, capacity]
    omega
  have hdata := splitData_lengths hbytes
  have hcount : (splitData blocks bytes).length = blocks.length := by
    have := congrArg List.length hdata
    rwa [List.length_map, List.length_map] at this
  have herror := sum_error_le hcount h
  have htotal := totalCodewords_le_data_add_error blocks
  rw [interleave, List.length_append, interleaveLists_length, interleaveLists_length, hdata]
  omega

/-- What RS_ASSEMBLE leaves for the codewords `bytes`. -/
def State.assembled (s : State) (blocks : List Block) (bytes : List Byte) : State :=
  { writeEcInfo (s.storeCw bytes) blocks with cwLen := BitVec.ofNat 16 (totalCodewords blocks) }

theorem cwLen_assembled (s : State) {blocks : List Block} {bytes : List Byte} (hfit : totalCodewords blocks ≤ 4096) :
    (s.assembled blocks bytes).cwLen.toNat = totalCodewords blocks := by
  show totalCodewords blocks % 2 ^ 16 = _
  omega

theorem codewordBits_assembled (s : State) {blocks : List Block} {bytes : List Byte}
    (hlen : totalCodewords blocks ≤ bytes.length) (hfit : totalCodewords blocks ≤ 4096) :
    codewordBits (s.assembled blocks bytes) =
      (bytes.take (totalCodewords blocks)).flatMap fun b => bitsOf b.toNat 8 := by
  rw [codewordBits, cwLen_assembled s hfit]
  congr 1
  refine List.ext_getElem (by simpa using hlen) fun i hi _ => ?_
  rw [State.bytesAt_length] at hi
  simp only [State.bytesAt_eq, List.getElem_map, List.getElem_range, List.getElem_take]
  exact State.byteAt_storeCw_at s bytes (hi.trans_le hlen) (hi.trans_le hfit)

theorem State.SameBits.ruleRsAssemble_same {s t : State} (h : s.SameBits t) :
    SameOutcome State.SameCodewords (ruleRsAssemble s) (ruleRsAssemble t) := by
  rw [ruleRsAssemble, ruleRsAssemble, h.params, h.resVersion, h.cfgLevel, h.bitLen]
  cases hb : ecLookup s.params s.resVersion.toNat s.cfgLevel with
  | error e => exact .error e
  | ok blocks =>
    dsimp only
    by_cases hlong : capacity blocks < s.bitLen.toNat
    · rw [if_pos hlong, if_pos hlong]
      exact .error _
    by_cases hshort : s.bitLen.toNat < capacity blocks
    · rw [if_neg hlong, if_neg hlong, if_pos hshort, if_pos hshort]
      exact .error _
    have hroom := h.bounded
    have hbytes : t.bytesAt Window.bb.base (capacity blocks / 8) = s.bytesAt Window.bb.base (capacity blocks / 8) :=
      bytesAt_congr fun k hk => h.bytes k (by rw [Params.bbBytes]; omega)
    rw [if_neg hlong, if_neg hlong, if_neg hshort, if_neg hshort, hbytes]
    cases hecs : allErrorCodewords blocks (splitData blocks (s.bytesAt Window.bb.base (capacity blocks / 8))) with
    | error e => exact .error e
    | ok ecs =>
      have hb' : ecLookup t.params t.resVersion.toNat t.cfgLevel = .ok blocks := by
        rw [h.params, h.resVersion, h.cfgLevel, hb]
      have hlen := totalCodewords_le_interleave (s.bytesAt_length _ _) hecs
      have hfit := totalCodewords_le h.fits hb
      exact .ok ⟨h.toSameVersion.of_effects (.assemble blocks _ hb) (.assemble blocks _ hb') nofun nofun, h.bitLen, rfl,
        (cwLen_assembled s hfit).trans_le hfit, (codewordBits_assembled t hlen hfit).trans (codewordBits_assembled s hlen hfit).symm⟩

/-! ## The matrix commands -/

/-- Two states that agree on what a trial reads and on the registers that describe the data. -/
structure State.SameMatrix (s t : State) : Prop extends s.SameTrial t where
  set : s.tplVer ≠ 0
  bounded : s.tplVer.toNat ≤ 40
  resVersion : t.resVersion = s.resVersion
  resMode : t.resMode = s.resMode
  bitLen : t.bitLen = s.bitLen
  cwLen : t.cwLen = s.cwLen

/-- What MX_TEMPLATE leaves. -/
def State.templated (s : State) : State :=
  { s.storeTpl (template s.params s.resVersion.toNat) with tplVer := s.resVersion }

theorem codewordBits_templated {s : State} (hlen : s.cwLen.toNat ≤ 4096) :
    codewordBits s.templated = codewordBits s := by
  have hcw : s.templated.cwLen = s.cwLen := rfl
  have hbyte : ∀ i, i < s.cwLen.toNat → s.templated.byteAt (Window.cw.base + i) = s.byteAt (Window.cw.base + i) :=
    fun i hi => State.byteAt_storeTpl_outside s _ (.inl (by rw [Window.base]; omega))
  rw [codewordBits, codewordBits, hcw, bytesAt_congr hbyte]

theorem matrixAt_templated {s : State} (h40 : s.resVersion.toNat ≤ 40) :
    s.templated.matrixAt .tpl (moduleCount s.resVersion.toNat) = template s.params s.resVersion.toNat :=
  State.matrixAt_of_matrixMem (s := s) (.inl rfl) rfl (template_isSquare _ _) (by rw [moduleCount]; omega)

theorem State.SameCodewords.ruleMxTemplate_same {s t : State} (h : s.SameCodewords t) :
    SameOutcome State.SameMatrix (ruleMxTemplate s) (ruleMxTemplate t) := by
  by_cases hv : 1 ≤ s.resVersion.toNat ∧ s.resVersion.toNat ≤ 40
  · obtain ⟨h1, h40⟩ := hv
    have hs : ruleMxTemplate s = .ok s.templated := ruleMxTemplate_ok h1 h40
    have ht : ruleMxTemplate t = .ok t.templated := ruleMxTemplate_ok (h.resVersion ▸ h1) (h.resVersion ▸ h40)
    have hcodewords : codewordBits t.templated = codewordBits s.templated := by
      rw [codewordBits_templated h.bounded, codewordBits_templated (h.cwLen ▸ h.bounded), h.codewords]
    have hmatrix := matrixAt_templated (s := t) (h.resVersion ▸ h40)
    rw [h.params, h.resVersion, ← matrixAt_templated h40] at hmatrix
    have hset : s.resVersion ≠ 0 := by
      intro h0
      rw [h0] at h1
      exact absurd h1 (by decide)
    rw [hs, ht]
    exact .ok ⟨⟨h.params, h.resVersion, h.cfgLevel, hcodewords, hmatrix⟩, hset, h40, h.resVersion, h.resMode, h.bitLen,
      h.cwLen⟩
  · rw [ruleMxTemplate_error (by omega), ruleMxTemplate_error (by rw [h.resVersion]; omega)]
    exact .error _

/-- The penalties of the trials of all masks (`45_matrix.md` R262), whatever PEN held. -/
theorem foldl_setIfInBounds_get (f : Nat → Word) (pen : Vector Word 8) (n : Nat) {i : Nat} (hi : i < 8) :
    ((List.range n).foldl (fun pen m => pen.setIfInBounds m (f m)) pen)[i] = if i < n then f i else pen[i] := by
  induction n with
  | zero => rfl
  | succ n ih =>
    rw [List.range_succ, List.foldl_append, List.foldl_cons, List.foldl_nil, Vector.getElem_setIfInBounds, ih]
    by_cases h : n = i
    · rw [if_pos h, if_pos (by omega), h]
    · rw [if_neg h]
      exact if_congr (by omega) rfl rfl

/-- The penalty of the test trial with mask `m`. -/
def State.penalty (s : State) (m : Nat) : Word :=
  BitVec.ofNat 32 (score (moduleCount s.tplVer.toNat) (trial s m true))

theorem State.lanes_pen (s : State) : s.lanes.pen = Vector.ofFn fun m : Fin 8 => s.penalty m := by
  have hfold : s.lanes.pen = (List.range 8).foldl (fun pen m => pen.setIfInBounds m (s.penalty m)) s.pen := by
    rw [State.lanes]
    exact (List.foldl_hom State.pen fun t m => rfl).symm
  refine Vector.ext fun i hi => ?_
  rw [hfold, foldl_setIfInBounds_get _ _ _ hi, if_pos hi, Vector.getElem_ofFn]

theorem State.evaluated_sameTrial {s : State} (h40 : s.tplVer.toNat ≤ 40) : s.SameTrial s.evaluated := by
  refine State.sameTrial_of_sameOutside h40 ?_ ?_ ?_ ?_ fun a ha => s.lanes_sameOutside a ha
  all_goals
    rw [State.evaluated_frame]

/-- Two states that agree on what MX_COMMIT and the outputs of ENCODE before it hold. -/
structure State.SameEvaluation (s t : State) : Prop extends s.SameMatrix t where
  pen : t.pen = s.pen
  best : t.best = s.best

theorem State.SameTrial.symm {s t : State} (h : s.SameTrial t) : t.SameTrial s :=
  ⟨h.params.symm, h.tplVer.symm, h.cfgLevel.symm, h.codewords.symm, h.tplVer ▸ h.template.symm⟩

theorem State.SameTrial.trans {s t u : State} (h : s.SameTrial t) (h' : t.SameTrial u) : s.SameTrial u :=
  ⟨h'.params.trans h.params, h'.tplVer.trans h.tplVer, h'.cfgLevel.trans h.cfgLevel, h'.codewords.trans h.codewords,
    (h.tplVer ▸ h'.template).trans h.template⟩

theorem State.SameMatrix.ruleMxEval_same {s t : State} (h : s.SameMatrix t) :
    SameOutcome State.SameEvaluation (ruleMxEval s) (ruleMxEval t) := by
  have hset : t.tplVer ≠ 0 := h.tplVer ▸ h.set
  have hs := State.evaluated_sameTrial h.bounded
  have ht := State.evaluated_sameTrial (s := t) (h.tplVer ▸ h.bounded)
  have hpen : t.lanes.pen = s.lanes.pen := by
    rw [State.lanes_pen, State.lanes_pen]
    refine congrArg Vector.ofFn (funext fun m => ?_)
    rw [State.penalty, State.penalty, h.tplVer, h.toSameTrial.trial_eq]
  rw [ruleMxEval_ok h.set, ruleMxEval_ok hset]
  refine .ok ⟨⟨(hs.symm.trans h.toSameTrial).trans ht, ?_, ?_, ?_, ?_, ?_, ?_⟩, hpen,
    congrArg (fun pen => BitVec.ofNat 3 (bestMask pen)) hpen⟩
  · rw [hs.tplVer]
    exact h.set
  · rw [hs.tplVer]
    exact h.bounded
  all_goals rw [State.evaluated_frame, State.evaluated_frame]
  · exact h.resVersion
  · exact h.resMode
  · exact h.bitLen
  · exact h.cwLen

/-- Two states that hold the same outcome of ENCODE. -/
structure State.SameSymbol (s t : State) : Prop where
  resVersion : t.resVersion = s.resVersion
  resMode : t.resMode = s.resMode
  resMask : t.resMask = s.resMask
  pen : t.pen = s.pen
  bitLen : t.bitLen = s.bitLen
  cwLen : t.cwLen = s.cwLen
  finalVer : t.finalVer = s.finalVer
  final : ∀ r c, r < moduleCount s.finalVer.toNat → c < moduleCount s.finalVer.toNat →
    t.cell .final r c = s.cell .final r c

theorem State.SameEvaluation.ruleMxCommit_same {s t : State} (h : s.SameEvaluation t) :
    SameOutcome State.SameSymbol (ruleMxCommit 0 true s) (ruleMxCommit 0 true t) := by
  have h7 : s.best.toNat ≤ 7 := Nat.le_of_lt_succ s.best.isLt
  have hset : t.tplVer ≠ 0 := h.tplVer ▸ h.set
  have hs : ruleMxCommit 0 true s = .ok { s.storeFinal (trial s s.best.toNat false) with
      finalVer := s.tplVer, resMask := BitVec.ofNat 3 s.best.toNat } := by
    rw [ruleMxCommit, if_pos rfl, checkTrial_eq_ok.2 ⟨h.set, h7⟩]
  have ht : ruleMxCommit 0 true t = .ok { t.storeFinal (trial t t.best.toNat false) with
      finalVer := t.tplVer, resMask := BitVec.ofNat 3 t.best.toNat } := by
    rw [ruleMxCommit, if_pos rfl, checkTrial_eq_ok.2 ⟨hset, h.best ▸ h7⟩]
  rw [hs, ht]
  refine .ok ⟨h.resVersion, h.resMode, congrArg (fun b : BitVec 3 => BitVec.ofNat 3 b.toNat) h.best, h.pen, h.bitLen,
    h.cwLen, h.tplVer, fun r c hr hc => ?_⟩
  have htrial : trial t t.best.toNat false = trial s s.best.toNat false := by rw [h.toSameTrial.trial_eq, h.best]
  have hcell := committed_cell (s := t) (h.tplVer ▸ h.bounded) t.best.toNat (h.tplVer ▸ hr) (h.tplVer ▸ hc)
  exact (hcell.trans (congrArg (fun g : Grid => g.get r c) htrial)).trans
    (committed_cell h.bounded s.best.toNat hr hc).symm

/-! ## ENCODE -/

/-- The runs of ENCODE's steps from two states with the same inputs. -/
theorem runSteps_encode_same {s t : State} (h : s.SameInputs t) {n : Nat} (hn : s.nseg.toNat = n) :
    SameEnd State.SameSymbol (runSteps (encodeSteps n) s) (runSteps (encodeSteps n) t) := by
  refine runSteps_cons_sameEnd (ruleVerSelect_same h) fun s t ⟨h, h16⟩ => ?_
  rw [hn] at h16
  refine runSteps_cons_sameEnd (ruleBbClear_same h) fun s t h => ?_
  refine runSteps_append_sameEnd h (fun rule hr s t h => ?_) fun s t h => ?_
  · obtain ⟨i, hi, rfl⟩ := List.mem_map.1 hr
    exact h.ruleSegWrite_same ((List.mem_range.1 hi).trans_le h16)
  refine runSteps_cons_sameEnd (P := State.SameBits) ?_ fun s t h => ?_
  · rw [h.encodeCapacity_eq]
    exact h.ruleBbEom_same _
  refine runSteps_cons_sameEnd (P := State.SameBits) ?_ fun s t h => ?_
  · rw [h.encodeCapacity_eq]
    exact h.ruleBbPad_same _
  refine runSteps_cons_sameEnd h.ruleRsAssemble_same fun s t h => ?_
  refine runSteps_cons_sameEnd h.ruleMxTemplate_same fun s t h => ?_
  refine runSteps_cons_sameEnd h.ruleMxEval_same fun s t h => ?_
  exact runSteps_cons_sameEnd h.ruleMxCommit_same fun s t h => .done h

theorem runSteps_encode_err (s : State) (nseg : Nat) : (runSteps (encodeSteps nseg) s).1.err = s.err :=
  (congrArg State.err (runSteps_encode_frame s nseg) :)

/-- Settles O43: the two runs agree, step for step, on all that the later steps read. -/
theorem encodeIsDeterministic : Obligations.EncodeIsDeterministic := by
  intro s₁ s₂ t₁ t₂ hfit hsame h₁ h₂ ht₁ ht₂
  have hnseg : s₂.nseg = s₁.nseg := hsame.2.1
  rw [exec_encode, completeSteps, Host.Outcome.next.injEq] at ht₁ ht₂
  have herr₁ := runSteps_encode_err s₁ s₁.nseg.toNat
  have herr₂ := runSteps_encode_err s₂ s₁.nseg.toNat
  rw [hnseg] at ht₂
  subst ht₁ ht₂
  have hrun := runSteps_encode_same ⟨hfit, hsame⟩ rfl
  generalize runSteps (encodeSteps s₁.nseg.toNat) s₁ = x₁ at *
  generalize runSteps (encodeSteps s₁.nseg.toNat) s₂ = x₂ at *
  cases hrun with
  | failed u v e => exact ⟨rfl, fun _ => rfl, nofun⟩
  | @done u v h =>
    refine ⟨herr₁.trans (h₁.trans (herr₂.trans h₂).symm), fun h => ?_, fun _ => ?_⟩
    · exact absurd (h.symm.trans (herr₁.trans h₁)) nofun
    · exact ⟨h.resVersion.symm, h.resMode.symm, h.resMask.symm, h.pen.symm, h.bitLen.symm, h.cwLen.symm, h.finalVer.symm,
        fun r c hr hc => (h.final r c hr hc).symm⟩

end Sys2Proof.Machine

/-! NOP, and VER_SELECT (`46_encoder.md` R280-R283): the segments validation loads, and the version the search takes. -/

namespace Sys2Proof.Machine

/-- Settles O38: NOP's rule answers the state it is given, and every row of opcode 0 fixes the bits above it. -/
theorem nopResult : Obligations.NopResult :=
  ⟨fun _ => complete_ok rfl, illegalWhere_of_rows (by simp [opcodeRows])⟩

/-! ## Validation -/

theorem ne_zero_of_one_le {w : Nat} {x : BitVec w} (h : 1 ≤ x.toNat) : x ≠ 0 := by
  rintro rfl
  simp at h

/-- The mode of a mode code. -/
def modeOfCode : Nat → Mode
  | 1 => .numeric
  | 2 => .alphanumeric
  | _ => .byte

theorem modeOfCode_code (md : Mode) : modeOfCode md.code = md := by cases md <;> rfl

/-- Segment `i` as it loads, where the descriptors resolve to the mode codes `mode`. -/
def State.segment (s : State) (mode : Nat → Nat) (i : Nat) : Segment :=
  { mode := modeOfCode (mode i), payload := s.segPayload i }

section
variable {s : State} {mode : Nat → Nat}

theorem loadSegment_segment {i : Nat} (h : s.SegmentIs i (mode i)) :
    loadSegment s i = .ok (s.segment mode i) ∧ (s.segment mode i).mode.code = mode i := by
  obtain ⟨md, hcode, hload⟩ := loadSegment_of_segmentIs h
  have hmd : (s.segment mode i).mode = md := by rw [← modeOfCode_code md, hcode]; rfl
  exact ⟨by rw [hload, ← hmd]; rfl, by rw [hmd, hcode]⟩

theorem loadSegments_of_loads {seg : Nat → Segment} {is : List Nat} (h : ∀ i ∈ is, loadSegment s i = .ok (seg i)) :
    loadSegments s is = .ok (is.map seg) := by
  induction is with
  | nil => rfl
  | cons i rest ih =>
    obtain ⟨hi, hrest⟩ := List.forall_mem_cons.1 h
    rw [loadSegments, hi, ih hrest]
    rfl

/-- The first segment that does not load gives its error. -/
theorem loadSegments_of_first_error {before after : List Nat} {k : Nat} {e : ErrCode}
    (h : ∀ i ∈ before, ∃ g, loadSegment s i = .ok g) (hk : loadSegment s k = .error e) :
    loadSegments s (before ++ k :: after) = .error e := by
  induction before with
  | nil => rw [List.nil_append, loadSegments, hk]
  | cons i rest ih =>
    obtain ⟨⟨g, hi⟩, hrest⟩ := List.forall_mem_cons.1 h
    rw [List.cons_append, loadSegments, hi, ih hrest]

theorem range_split {k n : Nat} (h : k < n) : ∃ after, List.range n = List.range k ++ k :: after := by
  obtain ⟨m, rfl⟩ := Nat.exists_eq_add_of_lt h
  exact ⟨(List.range m).map fun i => k + (i + 1), by
    rw [Nat.add_assoc, List.range_add, List.range_succ_eq_map, List.map_cons, List.map_map]; rfl⟩

theorem validate_of_shape (h : s.nseg.toNat = 0 ∨ s.params.segMax < s.nseg.toNat) : validate s = .error .valShape :=
  if_pos (h.imp_left fun h0 => BitVec.eq_of_toNat_eq h0)

variable (h1 : 1 ≤ s.nseg.toNat) (hmax : s.nseg.toNat ≤ s.params.segMax)
include h1 hmax

theorem validate_of_segment_error {e : ErrCode} (h : loadSegments s (List.range s.nseg.toNat) = .error e) :
    validate s = .error e := by
  rw [validate, if_neg (not_or.2 ⟨ne_zero_of_one_le h1, Nat.not_lt.2 hmax⟩), h]

variable {gs : List Segment} (hload : loadSegments s (List.range s.nseg.toNat) = .ok gs)
include hload

/-- With every segment loaded, what is left to check is an explicit version. -/
theorem validate_of_segments : validate s =
    if s.cfgVersion ≠ 0 ∧ s.cfgMaxVer.toNat < s.cfgVersion.toNat then .error .valVersion
    else if s.cfgVersion ≠ 0 ∧ 40 < s.cfgVersion.toNat then .error .rangeVersion
    else .ok gs := by
  rw [validate, if_neg (not_or.2 ⟨ne_zero_of_one_le h1, Nat.not_lt.2 hmax⟩), hload]
  rfl

theorem validate_ok (hv : s.cfgVersion ≠ 0 → s.cfgVersion.toNat ≤ s.cfgMaxVer.toNat ∧ s.cfgVersion.toNat ≤ 40) :
    validate s = .ok gs := by
  rw [validate_of_segments h1 hmax hload, if_neg fun h => Nat.not_lt.2 (hv h.1).1 h.2,
    if_neg fun h => Nat.not_lt.2 (hv h.1).2 h.2]

end

/-! ## The search -/

/-- The bits segment `i` needs at version `v`, by its mode code (`42_segment.md` R167). -/
def State.cost (s : State) (mode : Nat → Nat) (v i : Nat) : Nat := segmentCost s.params (mode i) (s.segCount i) v

/-- The bits all segments need at version `v` (`46_encoder.md` R282). -/
def State.needs (s : State) (mode : Nat → Nat) (v : Nat) : Nat := sumBelow s.nseg.toNat (s.cost mode v)

/-- The capacity of version `v` at CFG.LEVEL. -/
def State.holds (s : State) (v : Nat) : Nat := 8 * dataCount (s.params.ecGroups v s.cfgLevel)

theorem requiredBits_eq {v : Nat} (h1 : 1 ≤ v) (h40 : v ≤ 40) (p : Params) (gs : List Segment) :
    requiredBits p gs v = .ok (gs.map fun g => segmentCost p g.mode.code g.payload.length v).sum := by
  induction gs with
  | nil => rfl
  | cons g rest ih =>
    rw [requiredBits, bitCost_eq_ok h1 h40, ih]
    rfl

theorem maxBits_eq {v : Nat} (h1 : 1 ≤ v) (h40 : v ≤ 40) (p : Params) (lvl : BitVec 2) :
    maxBits p v lvl = 8 * dataCount (p.ecGroups v lvl) := by
  rw [maxBits, ecLookup_of_version h1 h40, ← capacity_expandGroups]

/-- The versions up to `n`, before and after version `v`. -/
theorem versions_split {v n : Nat} (h1 : 1 ≤ v) (h : v ≤ n) :
    List.range' 1 n = List.range' 1 (v - 1) ++ v :: List.range' (v + 1) (n - v) := by
  obtain ⟨u, rfl⟩ := Nat.exists_eq_add_of_le h1
  obtain ⟨m, rfl⟩ := Nat.exists_eq_add_of_le h
  rw [← List.range'_succ, Nat.add_sub_cancel_left, Nat.add_sub_cancel_left, List.range'_append_1, Nat.add_comm 1 u,
    Nat.add_right_comm, Nat.add_assoc]

section
variable {s : State} {mode : Nat → Nat} (hseg : ∀ i, i < s.nseg.toNat → s.SegmentIs i (mode i))
include hseg

theorem loadSegments_segment :
    loadSegments s (List.range s.nseg.toNat) = .ok ((List.range s.nseg.toNat).map (s.segment mode)) :=
  loadSegments_of_loads fun i hi => (loadSegment_segment (hseg i (List.mem_range.1 hi))).1

theorem requiredBits_segments {v : Nat} (h1 : 1 ≤ v) (h40 : v ≤ 40) :
    requiredBits s.params ((List.range s.nseg.toNat).map (s.segment mode)) v = .ok (s.needs mode v) := by
  rw [requiredBits_eq h1 h40, List.map_map]
  refine congrArg Except.ok (sumBelow_congr fun i hi => ?_)
  rw [Function.comp_apply, (loadSegment_segment (hseg i hi)).2, State.cost, ← State.segPayload_length]
  rfl

/-- One version of the search. -/
theorem searchVersions_cons {v : Nat} (h1 : 1 ≤ v) (h40 : v ≤ 40) (rest : List Nat) :
    searchVersions s.params ((List.range s.nseg.toNat).map (s.segment mode)) s.cfgLevel (v :: rest) =
      if s.needs mode v < s.holds v then .ok v
      else searchVersions s.params ((List.range s.nseg.toNat).map (s.segment mode)) s.cfgLevel rest := by
  have hmax : ¬Config.maxVersion < v := Nat.not_lt.2 h40
  rw [searchVersions, if_neg hmax, requiredBits_segments hseg h1 h40, maxBits_eq h1 h40]
  rfl

/-- The search passes over versions that do not fit. -/
theorem searchVersions_skip {n : Nat} (h40 : n ≤ 40) (h : ∀ u, 1 ≤ u → u ≤ n → ¬s.needs mode u < s.holds u)
    (rest : List Nat) :
    searchVersions s.params ((List.range s.nseg.toNat).map (s.segment mode)) s.cfgLevel (List.range' 1 n ++ rest) =
      searchVersions s.params ((List.range s.nseg.toNat).map (s.segment mode)) s.cfgLevel rest := by
  induction n generalizing rest with
  | zero => rfl
  | succ n ih =>
    rw [List.range'_1_concat, List.append_assoc, ih (by omega) fun u h1 hu => h u h1 (by omega), List.singleton_append,
      searchVersions_cons hseg (by omega) (by omega), if_neg (h _ (by omega) (by omega))]

/-- The least version that fits is the search's. -/
theorem search_of_least {v : Nat} (h1 : 1 ≤ v) (h40 : v ≤ 40) (hv : v ≤ s.cfgMaxVer.toNat)
    (hfits : s.needs mode v < s.holds v) (hleast : ∀ u, 1 ≤ u → u < v → ¬s.needs mode u < s.holds u) :
    search s ((List.range s.nseg.toNat).map (s.segment mode)) = .ok v := by
  rw [search, versions_split h1 hv, searchVersions_skip hseg (by omega) fun u h hu => hleast u h (by omega),
    searchVersions_cons hseg h1 h40, if_pos hfits]

/-- The error of a search that fits no version up to MAXVER and 40: it ends past MAXVER, or at version 41. -/
theorem search_of_none (h : ∀ u, 1 ≤ u → u ≤ 40 → u ≤ s.cfgMaxVer.toNat → ¬s.needs mode u < s.holds u) :
    search s ((List.range s.nseg.toNat).map (s.segment mode)) =
      .error (if s.cfgMaxVer.toNat ≤ 40 then .capNoVersion else .rangeVersion) := by
  by_cases h40 : s.cfgMaxVer.toNat ≤ 40
  · rw [if_pos h40, search, ← List.append_nil (List.range' _ _),
      searchVersions_skip hseg h40 fun u h1 hu => h u h1 (by omega) hu]
    rfl
  · have hsplit : List.range' 1 s.cfgMaxVer.toNat = List.range' 1 40 ++ 41 :: List.range' 42 (s.cfgMaxVer.toNat - 41) :=
      versions_split (v := 41) (by omega) (by omega)
    rw [if_neg h40, search, hsplit, searchVersions_skip hseg (Nat.le_refl 40) fun u h1 hu => h u h1 hu (by omega)]
    rfl

end

/-! ## VER_SELECT -/

/-- What VER_SELECT leaves for the version `v` and the mode code `m` of segment 0. -/
def State.selected (s : State) (v m : Nat) : State :=
  { s with resVersion := BitVec.ofNat 6 v, resMode := BitVec.ofNat 4 m }

section
variable {s : State}

theorem ruleVerSelect_of_validate {e : ErrCode} (h : validate s = .error e) : ruleVerSelect s = .error e := by
  rw [ruleVerSelect, h]

variable {mode : Nat → Nat} (h1 : 1 ≤ s.nseg.toNat) (hmax : s.nseg.toNat ≤ s.params.segMax)
  (hseg : ∀ i, i < s.nseg.toNat → s.SegmentIs i (mode i))
include h1 hseg

/-- The mode of segment 0 is the primary mode. -/
theorem primaryMode_segments : primaryMode ((List.range s.nseg.toNat).map (s.segment mode)) = mode 0 := by
  obtain ⟨n, hn⟩ := Nat.exists_eq_add_of_le' h1
  rw [hn, map_range_succ]
  exact (loadSegment_segment (hseg 0 h1)).2

include hmax

theorem ruleVerSelect_of_choice
    (hv : s.cfgVersion ≠ 0 → s.cfgVersion.toNat ≤ s.cfgMaxVer.toNat ∧ s.cfgVersion.toNat ≤ 40) {v : Nat}
    (h : chooseVersion s ((List.range s.nseg.toNat).map (s.segment mode)) = .ok v) :
    ruleVerSelect s = .ok (s.selected v (mode 0)) := by
  rw [ruleVerSelect, validate_ok h1 hmax (loadSegments_segment hseg) hv]
  dsimp only
  rw [h, primaryMode_segments h1 hseg]
  rfl

theorem ruleVerSelect_explicit (h0 : s.cfgVersion ≠ 0) (hv : s.cfgVersion.toNat ≤ s.cfgMaxVer.toNat)
    (h40 : s.cfgVersion.toNat ≤ 40) : ruleVerSelect s = .ok (s.selected s.cfgVersion.toNat (mode 0)) :=
  ruleVerSelect_of_choice h1 hmax hseg (fun _ => ⟨hv, h40⟩) (if_neg h0)

theorem ruleVerSelect_search (h0 : s.cfgVersion = 0) {v : Nat} (hv1 : 1 ≤ v) (h40 : v ≤ 40)
    (hv : v ≤ s.cfgMaxVer.toNat) (hfits : s.needs mode v < s.holds v)
    (hleast : ∀ u, 1 ≤ u → u < v → ¬s.needs mode u < s.holds u) :
    ruleVerSelect s = .ok (s.selected v (mode 0)) :=
  ruleVerSelect_of_choice h1 hmax hseg (fun h => absurd h0 h)
    ((if_pos h0).trans (search_of_least hseg hv1 h40 hv hfits hleast))

theorem ruleVerSelect_none (h0 : s.cfgVersion = 0)
    (h : ∀ u, 1 ≤ u → u ≤ 40 → u ≤ s.cfgMaxVer.toNat → ¬s.needs mode u < s.holds u) :
    ruleVerSelect s = .error (if s.cfgMaxVer.toNat ≤ 40 then .capNoVersion else .rangeVersion) := by
  rw [ruleVerSelect, validate_ok h1 hmax (loadSegments_segment hseg) fun h => absurd h0 h]
  dsimp only
  rw [chooseVersion, if_pos h0, search_of_none hseg h]

end

/-- The code of the error of a search that fits no version. -/
theorem failed_of_search (s : State) (c : Prop) [Decidable c] :
    s.raise (if c then .capNoVersion else .rangeVersion) = s.failed (if c then 0x20 else 0x33) := by
  split <;> rfl

/-- Settles O39: the explicit version is not compared with a capacity, and the search takes the least that fits. -/
theorem verSelectResult : Obligations.VerSelectResult := by
  intro s mode h1 hmax hseg fits
  refine ⟨fun h0 hv h40 => ?_, fun v h0 hv1 h40 hv hfits hleast => ?_, fun h0 hnone => ?_⟩
  · have hexec := complete_ok (ruleVerSelect_explicit h1 hmax hseg h0 hv h40)
    rw [State.selected, BitVec.ofNat_toNat, BitVec.setWidth_eq] at hexec
    exact hexec
  · exact complete_ok (ruleVerSelect_search h1 hmax hseg h0 hv1 h40 hv hfits hleast)
  · rw [← failed_of_search]
    exact complete_error (ruleVerSelect_none h1 hmax hseg h0 hnone)

/-! ## The first step of ENCODE -/

/-- ENCODE begins with VER_SELECT, whose error ends it with no effect. -/
theorem exec_of_verSelect_error {s : State} {c : Instr} {e : ErrCode} (hc : c = .verSelect ∨ c = .encode)
    (h : ruleVerSelect s = .error e) : exec c s = .next (s.raise e) := by
  rcases hc with rfl | rfl
  · exact complete_error h
  · rw [exec_encode, completeSteps, encodeSteps, List.append_assoc, List.cons_append, runSteps_cons_error h]
    rfl

/-- Settles O40: the shape, the segments up to the first bad one, then the explicit version. -/
theorem validationErrors : Obligations.ValidationErrors := by
  intro s c hc
  have hfail : ∀ {e : ErrCode}, validate s = .error e → exec c s = .next (s.raise e) := fun h =>
    exec_of_verSelect_error hc (ruleVerSelect_of_validate h)
  refine ⟨fun h => hfail (validate_of_shape h), fun k h1 hmax hk hbefore => ?_, fun h1 hmax hseg h0 => ?_⟩
  · have hbad : ∀ {e : ErrCode}, loadSegment s k = .error e → exec c s = .next (s.raise e) := fun hload => by
      obtain ⟨after, hsplit⟩ := range_split hk
      refine hfail (validate_of_segment_error h1 hmax (hsplit ▸ loadSegments_of_first_error (fun i hi => ?_) hload))
      obtain ⟨m, hm⟩ := hbefore i (List.mem_range.1 hi)
      obtain ⟨md, -, hg⟩ := loadSegment_of_segmentIs hm
      exact ⟨_, hg⟩
    exact ⟨fun hm => hbad (loadSegment_of_mode hm), fun hm hb => hbad (loadSegment_of_bounds hm hb),
      fun hb hp => hbad (loadSegment_of_alphabet hb hp)⟩
  · choose! mode hmode using hseg
    have hvalid := validate_of_segments h1 hmax (loadSegments_segment hmode)
    exact ⟨fun hlt => hfail (hvalid.trans (if_pos ⟨h0, hlt⟩)),
      fun hle h40 => hfail (hvalid.trans ((if_neg fun h => Nat.not_lt.2 hle h.2).trans (if_pos ⟨h0, h40⟩)))⟩

end Sys2Proof.Machine

/-! ENCODE (`46_encoder.md` R284, R285; `60_exceptions.md` R305, R306): its steps as the rules of the
named commands, and the commands run one after another, each from what the report of the one before leaves. -/

namespace Sys2Proof.Machine

/-! ## Steps as commands -/

/-- ENCODE's commands up to its last SEG_WRITE, for `k` segments. -/
def segmentCommands (k : Nat) : List Instr := [.verSelect, .bbClear] ++ (List.range k).map .segWrite

/-- ENCODE's commands after the padded bit buffer. -/
def symbolCommands : List Instr := [.rsAssemble, .mxTemplate, .mxEval, .mxCommit 0 true]

theorem bufferCommands_eq (nseg m : Nat) : bufferCommands nseg m = segmentCommands nseg ++ [.bbEom m, .bbPad m] := rfl

theorem isEncodeStep_of_mem {nseg m : Nat} {i : Instr} (h : i ∈ bufferCommands nseg m ++ symbolCommands) :
    isEncodeStep i = true := by
  simp only [bufferCommands, symbolCommands, List.mem_append, List.mem_cons, List.mem_map, List.not_mem_nil,
    or_false] at h
  rcases h with (((rfl | rfl) | ⟨k, -, rfl⟩) | rfl | rfl) | rfl | rfl | rfl | rfl <;> rfl

/-- ENCODE's steps after its last SEG_WRITE. -/
def closingSteps : List Rule :=
  (fun s => ruleBbEom (encodeCapacity s) s) :: (fun s => ruleBbPad (encodeCapacity s) s) :: symbolCommands.map ruleOf

theorem encodeSteps_eq_closing (nseg : Nat) :
    encodeSteps nseg = (segmentCommands nseg).map ruleOf ++ closingSteps := by
  simp [encodeSteps, segmentCommands, closingSteps, symbolCommands, ruleOf, Function.comp_def]

/-- The steps of ENCODE before SEG_WRITE of segment `k`, and that one. -/
theorem encodeSteps_split {k nseg : Nat} (hk : k < nseg) :
    ∃ rest, encodeSteps nseg = (segmentCommands k).map ruleOf ++ ruleSegWrite k :: rest := by
  obtain ⟨after, hsplit⟩ := range_split hk
  refine ⟨after.map ruleSegWrite ++ closingSteps, ?_⟩
  rw [encodeSteps_eq_closing]
  simp [segmentCommands, hsplit, ruleOf, Function.comp_def]

section
variable {s t u : State} {i : Instr}

/-- No effect but VER_SELECT's changes `MAXBITS(RES.VERSION, CFG.LEVEL)`. -/
theorem encodeCapacity_of_effect (h : Effect s i u) (hi : i ≠ .verSelect) : encodeCapacity u = encodeCapacity s := by
  have hp : u.params = s.params := by rw [h.frame]; rfl
  have hl : u.cfgLevel = s.cfgLevel := by rw [h.frame]; rfl
  rw [encodeCapacity, encodeCapacity, (h.res_eq hi).1, hp, hl]

/-- The terminator and the padding go to the capacity at the state they find, which the terminator leaves. -/
theorem runSteps_capacity {m : Nat} (hm : encodeCapacity s = m) (rest : List Rule) :
    runSteps ((fun s => ruleBbEom (encodeCapacity s) s) :: (fun s => ruleBbPad (encodeCapacity s) s) :: rest) s =
      runSteps (ruleBbEom m :: ruleBbPad m :: rest) s := by
  subst hm
  rw [runSteps, runSteps]
  cases hu : ruleBbEom (encodeCapacity s) s with
  | error e => rfl
  | ok u =>
    dsimp only
    rw [runSteps, runSteps, encodeCapacity_of_effect (ruleBbEom_effect hu) nofun]

/-- ENCODE's steps are the rules of its commands, for the capacity of the version that VER_SELECT resolved. -/
theorem runSteps_encode {nseg m : Nat} (h : runSteps ((segmentCommands nseg).map ruleOf) s = (t, none))
    (hm : encodeCapacity t = m) :
    runSteps (encodeSteps nseg) s = runSteps ((bufferCommands nseg m ++ symbolCommands).map ruleOf) s := by
  rw [encodeSteps_eq_closing, bufferCommands_eq, List.append_assoc, List.map_append, runSteps_append h,
    runSteps_append h, closingSteps, runSteps_capacity hm]
  rfl

/-! ## Reports between the commands -/

@[simp] theorem State.putBits_succeed (s : State) (bits : List Bool) :
    s.succeed.putBits bits = (s.putBits bits).succeed := by
  induction bits generalizing s with
  | nil => rfl
  | cons b rest ih => exact ih (s.putBit b)

@[simp] theorem State.evaluated_succeed (s : State) : s.succeed.evaluated = s.evaluated.succeed := by
  have hlanes : s.succeed.lanes = s.lanes.succeed := by
    rw [State.lanes, State.lanes]
    exact List.foldl_hom State.succeed fun t m => rfl
  rw [State.evaluated, hlanes]
  rfl

@[simp] theorem validate_succeed (s : State) : validate s.succeed = validate s := by
  have hload : ∀ is, loadSegments s.succeed is = loadSegments s is := fun is => by
    induction is with
    | nil => rfl
    | cons i rest ih => rw [loadSegments, loadSegments, ih]; rfl
  rw [validate, validate, hload]
  rfl

@[simp] theorem chooseVersion_succeed (s : State) (gs : List Segment) :
    chooseVersion s.succeed gs = chooseVersion s gs := rfl

@[simp] theorem loadSegment_succeed (s : State) (i : Nat) : loadSegment s.succeed i = loadSegment s i := rfl

@[simp] theorem bbOverflows_succeed (s : State) (count : Nat) : bbOverflows s.succeed count = bbOverflows s count := rfl

@[simp] theorem State.bytesAt_succeed (s : State) (base len : Nat) : s.succeed.bytesAt base len = s.bytesAt base len := rfl

@[simp] theorem checkTrial_succeed (s : State) (m : Nat) : checkTrial s.succeed m = checkTrial s m := rfl

/-- A report changes nothing that a step of ENCODE reads or writes. -/
theorem ruleOf_succeed (hi : isEncodeStep i = true) (s : State) :
    ruleOf i s.succeed = (ruleOf i s).map State.succeed := by
  cases i with
  | bbClear => rfl
  | verSelect =>
    simp only [ruleOf, ruleVerSelect, validate_succeed, chooseVersion_succeed]
    repeat' split
    all_goals rfl
  | segWrite k =>
    simp only [ruleOf, ruleSegWrite, loadSegment_succeed, State.succeed_params, State.succeed_resVersion,
      bbOverflows_succeed, State.putBits_succeed]
    repeat' split
    all_goals rfl
  | bbEom m | bbPad m =>
    simp only [ruleOf, ruleBbEom, ruleBbPad, State.put, State.succeed_params, State.succeed_bitLen, bbOverflows_succeed,
      State.putBits_succeed]
    repeat' split
    all_goals rfl
  | rsAssemble =>
    simp only [ruleOf, ruleRsAssemble, State.succeed_params, State.succeed_resVersion, State.succeed_cfgLevel,
      State.succeed_bitLen, State.bytesAt_succeed]
    split
    · rfl
    · refine map_check (map_check ?_)
      split <;> rfl
  | mxTemplate =>
    simp only [ruleOf, ruleMxTemplate, State.succeed_resVersion, State.succeed_params]
    split <;> rfl
  | mxEval =>
    by_cases h0 : s.tplVer = 0
    · have hfail : ∀ t : State, t.tplVer = 0 → ruleMxEval t = .error .hwNoTemplate := fun t h => if_pos h
      rw [ruleOf, hfail s h0, hfail s.succeed h0]
      rfl
    · have hok : ruleMxEval s.succeed = .ok s.succeed.evaluated := ruleMxEval_ok h0
      rw [ruleOf, ruleMxEval_ok h0, hok, State.evaluated_succeed]
      rfl
  | mxCommit m useBest =>
    simp only [ruleOf, ruleMxCommit, checkTrial_succeed, State.succeed_best]
    split <;> rfl
  | _ => cases hi

theorem runSteps_succeed {cmds : List Instr} (hc : ∀ i ∈ cmds, isEncodeStep i = true)
    (h : runSteps (cmds.map ruleOf) s = (u, none)) : runSteps (cmds.map ruleOf) s.succeed = (u.succeed, none) := by
  rw [runSteps_map (g := State.succeed) fun rule hr s => ?_, h]
  obtain ⟨i, hi, rfl⟩ := List.mem_map.1 hr
  exact ruleOf_succeed (hc i hi) s

theorem exec_of_runSteps {rest : List Instr} (hc : ∀ j ∈ i :: rest, isEncodeStep j = true)
    (h : runSteps ((i :: rest).map ruleOf) s = (u, none)) :
    ∃ v, exec i s = .next v.succeed ∧ runSteps (rest.map ruleOf) v = (u, none) := by
  have hi : i ≠ .encode := by
    rintro rfl
    cases hc _ List.mem_cons_self
  rw [List.map_cons] at h
  cases hr : ruleOf i s with
  | error e => cases (runSteps_cons_error hr).symm.trans h
  | ok v => exact ⟨v, (exec_eq_complete hi s).trans (complete_ok hr), (runSteps_cons_ok hr).symm.trans h⟩

/-- Commands whose rules succeed one after another run one after another. -/
theorem runs_of_runSteps {rest : List Instr} (hc : ∀ j ∈ i :: rest, isEncodeStep j = true)
    (h : runSteps ((i :: rest).map ruleOf) s = (u, none)) : s.Runs (i :: rest) u.succeed := by
  induction rest generalizing s u i with
  | nil =>
    obtain ⟨v, hv, hlast⟩ := exec_of_runSteps hc h
    cases hlast
    exact ⟨_, hv, rfl⟩
  | cons j rest ih =>
    obtain ⟨v, hv, hrest⟩ := exec_of_runSteps hc h
    have htail := (List.forall_mem_cons.1 hc).2
    have hruns := ih htail (runSteps_succeed htail hrest)
    exact ⟨_, hv, hruns⟩

end

end Sys2Proof.Machine

/-! The bit buffer of ENCODE (`46_encoder.md` R284): what its commands up to BB_PAD append to a cleared buffer. -/

namespace Sys2Proof.Machine

theorem sumBelow_succ_last (n : Nat) (f : Nat → Nat) : sumBelow (n + 1) f = sumBelow n f + f n := by
  simp [sumBelow, List.range_succ]

theorem sumBelow_mono {k n : Nat} (h : k ≤ n) (f : Nat → Nat) : sumBelow k f ≤ sumBelow n f := by
  induction n, h using Nat.le_induction with
  | base => exact Nat.le_refl _
  | succ n _ ih => rw [sumBelow_succ_last]; exact Nat.le_add_right_of_le ih

/-! ## An appended buffer -/

theorem State.selected_version (s : State) {v : Nat} (h40 : v ≤ 40) (m : Nat) : (s.selected v m).resVersion.toNat = v :=
  Nat.mod_eq_of_lt (show v < 2 ^ 6 by omega)

/-- What BB_CLEAR leaves. -/
def State.cleared (s : State) : State :=
  { s with mem := Memory.replace s.mem Window.bb.base s.params.bbBytes [], bitLen := 0 }

@[simp] theorem State.cleared_bitLen (s : State) : s.cleared.bitLen.toNat = 0 := rfl

/-- What VER_SELECT, for version `v` and mode code `m`, and BB_CLEAR leave, and then appending `bits`. -/
def State.buffered (s : State) (v m : Nat) (bits : List Bool) : State :=
  (s.selected v m).cleared.putBits bits

section
variable {s : State} {v m : Nat} {bits : List Bool}

theorem State.buffered_append (s : State) (v m : Nat) (xs ys : List Bool) :
    s.buffered v m (xs ++ ys) = (s.buffered v m xs).putBits ys := State.putBits_append _ xs ys

theorem State.buffered_bitLen (s : State) (v m : Nat) (h : bits.length ≤ 32768) :
    (s.buffered v m bits).bitLen.toNat = bits.length :=
  (State.putBits_bitLen _ bits (by rwa [State.cleared_bitLen, Nat.zero_add])).trans (Nat.zero_add _)

theorem State.buffered_frame (s : State) (v m : Nat) (h : bits.length ≤ 32768) :
    s.buffered v m bits = { s.selected v m with
      mem := (s.buffered v m bits).mem, bitLen := BitVec.ofNat 16 bits.length } := by
  have hlen : (s.buffered v m bits).bitLen = BitVec.ofNat 16 bits.length := by
    rw [← s.buffered_bitLen v m h, BitVec.ofNat_toNat, BitVec.setWidth_eq]
  rw [← hlen]
  exact State.putBits_frame _ bits

@[simp] theorem State.buffered_params (s : State) (v m : Nat) (bits : List Bool) :
    (s.buffered v m bits).params = s.params := by
  rw [State.buffered, State.putBits_frame]
  rfl

@[simp] theorem State.buffered_cfgLevel (s : State) (v m : Nat) (bits : List Bool) :
    (s.buffered v m bits).cfgLevel = s.cfgLevel := by
  rw [State.buffered, State.putBits_frame]
  rfl

theorem State.buffered_version (s : State) (h40 : v ≤ 40) (m : Nat) (bits : List Bool) :
    (s.buffered v m bits).resVersion.toNat = v := by
  rw [State.buffered, State.putBits_frame]
  exact s.selected_version h40 m

/-- The row of EC_TABLE that RS_ASSEMBLE reads. -/
theorem State.buffered_ecLookup (s : State) (h1 : 1 ≤ v) (h40 : v ≤ 40) (m : Nat) (bits : List Bool) :
    ecLookup (s.buffered v m bits).params (s.buffered v m bits).resVersion.toNat (s.buffered v m bits).cfgLevel =
      .ok (expandGroups (s.params.ecGroups v s.cfgLevel)) := by
  rw [s.buffered_version h40, State.buffered_params, State.buffered_cfgLevel, ecLookup_of_version h1 h40]

theorem State.buffered_capacity (s : State) (h1 : 1 ≤ v) (h40 : v ≤ 40) (m : Nat) (bits : List Bool) :
    encodeCapacity (s.buffered v m bits) = s.holds v := by
  rw [encodeCapacity, maxBits, s.buffered_ecLookup h1 h40]
  exact capacity_expandGroups _

/-- The bits of a segment depend on the parameters and RES.VERSION alone. -/
theorem State.buffered_writtenBits (s : State) (v m : Nat) (bits : List Bool) (g : Segment) :
    (s.buffered v m bits).writtenBits g = (s.selected v m).writtenBits g := by
  rw [State.buffered, State.putBits_frame]
  rfl

variable (hfit : s.params.Fits)
include hfit

theorem State.sameOutside_buffered (h : bits.length ≤ s.params.bbMaxBits) :
    s.sameOutside (s.buffered v m bits) 0x005000 0x006000 := by
  obtain ⟨-, hbb, -⟩ := hfit
  have hclear : (s.selected v m).sameOutside (s.selected v m).cleared 0x005000 (0x005000 + s.params.bbBytes) :=
    Effect.sameOutside .clear
  refine State.sameOutside_trans
    (State.sameOutside_mono hclear (Nat.le_refl _) (by rw [Params.bbBytes]; omega)) fun a ha => ?_
  refine State.byteAt_putBits_outside _ bits ?_ ?_ <;> rw [State.cleared_bitLen] <;> omega

theorem State.sameInputs_buffered (h : bits.length ≤ s.params.bbMaxBits) : s.SameInputs (s.buffered v m bits) := by
  have hm := State.sameOutside_buffered (v := v) (m := m) hfit h
  have hframe := s.buffered_frame v m (h.trans hfit.2.1)
  refine ⟨hfit, ?_, ?_, ?_, ?_, ?_, fun i hi => hm _ (by omega), fun i hi => hm _ (by omega)⟩
  all_goals
    rw [hframe]
    rfl

end

/-! ## The segments -/

section
variable {s : State} {i : Nat} {g : Segment} (h : loadSegment s i = .ok g) (h1 : 1 ≤ s.resVersion.toNat)
  (h40 : s.resVersion.toNat ≤ 40)
include h h1 h40

theorem ruleSegWrite_of_room (hroom : s.bitLen.toNat + (s.writtenBits g).length ≤ s.params.bbMaxBits) :
    ruleSegWrite i s = .ok (s.putBits (s.writtenBits g)) := by
  rw [State.writtenBits_length] at hroom
  simp [ruleSegWrite, h, lenBits_eq_ok h1 h40, ← segmentCost_eq, bbOverflows, Nat.not_lt.2 hroom, State.writtenBits]

theorem ruleSegWrite_of_full (hfull : s.params.bbMaxBits < s.bitLen.toNat + (s.writtenBits g).length) :
    ruleSegWrite i s = .error .hwBbFull := by
  rw [State.writtenBits_length] at hfull
  simp only [ruleSegWrite, h, lenBits_eq_ok h1 h40, ← segmentCost_eq, bbOverflows, hfull, decide_true, if_true]

end

/-- The bits of the first `k` segments at version `v`. -/
def State.dataBits (s : State) (mode : Nat → Nat) (v k : Nat) : List Bool :=
  (List.range k).flatMap fun i => (s.selected v (mode 0)).writtenBits (s.segment mode i)

theorem State.dataBits_succ (s : State) (mode : Nat → Nat) (v k : Nat) : s.dataBits mode v (k + 1) =
    s.dataBits mode v k ++ (s.selected v (mode 0)).writtenBits (s.segment mode k) := by
  simp [State.dataBits, List.range_succ]

section
variable {s : State} {mode : Nat → Nat} {v : Nat} (hfit : s.params.Fits) (hmax : s.nseg.toNat ≤ s.params.segMax)
  (hseg : ∀ i, i < s.nseg.toNat → s.SegmentIs i (mode i)) (h1 : 1 ≤ v) (h40 : v ≤ 40)

include hseg h40 in
theorem writtenBits_segment_length {i : Nat} (hi : i < s.nseg.toNat) :
    ((s.selected v (mode 0)).writtenBits (s.segment mode i)).length = s.cost mode v i := by
  rw [State.writtenBits_length, (loadSegment_segment (hseg i hi)).2, s.selected_version h40, State.cost,
    ← State.segPayload_length]
  rfl

include hseg h40 in
theorem dataBits_length {k : Nat} (hk : k ≤ s.nseg.toNat) : (s.dataBits mode v k).length = sumBelow k (s.cost mode v) := by
  rw [State.dataBits, List.length_flatMap]
  exact sumBelow_congr fun i hi => writtenBits_segment_length hseg h40 (hi.trans_le hk)

include hfit hmax hseg h1 h40

/-- SEG_WRITE of segment `k` after those before it, with room for it or without. -/
theorem ruleSegWrite_dataBits {k : Nat} (hk : k < s.nseg.toNat)
    (hbefore : sumBelow k (s.cost mode v) ≤ s.params.bbMaxBits) :
    ruleSegWrite k (s.buffered v (mode 0) (s.dataBits mode v k)) =
      if s.params.bbMaxBits < sumBelow (k + 1) (s.cost mode v) then .error .hwBbFull
      else .ok (s.buffered v (mode 0) (s.dataBits mode v (k + 1))) := by
  obtain ⟨-, hbb, -, h16, -⟩ := id hfit
  have hlen := dataBits_length hseg h40 hk.le
  have hinputs := State.sameInputs_buffered (v := v) (m := mode 0) hfit (hlen.trans_le hbefore)
  have hload : loadSegment (s.buffered v (mode 0) (s.dataBits mode v k)) k = .ok (s.segment mode k) :=
    (hinputs.loadSegment_eq (by omega)).trans (loadSegment_segment (hseg k hk)).1
  have hbits : (s.buffered v (mode 0) (s.dataBits mode v k)).bitLen.toNat = sumBelow k (s.cost mode v) :=
    (s.buffered_bitLen v (mode 0) (by omega)).trans hlen
  have hver := s.buffered_version h40 (mode 0) (s.dataBits mode v k)
  have hwritten := s.buffered_writtenBits v (mode 0) (s.dataBits mode v k) (s.segment mode k)
  have hcost := hwritten ▸ writtenBits_segment_length hseg h40 hk
  rw [sumBelow_succ_last]
  split
  · refine ruleSegWrite_of_full hload (h1.trans hver.ge) (hver.le.trans h40) ?_
    rwa [hbits, hcost, State.buffered_params]
  · rw [State.dataBits_succ, State.buffered_append, ← hwritten]
    refine ruleSegWrite_of_room hload (h1.trans hver.ge) (hver.le.trans h40) ?_
    rw [hbits, hcost, State.buffered_params]
    omega

variable (hsel : ruleVerSelect s = .ok (s.selected v (mode 0)))
include hsel

/-- The commands up to SEG_WRITE of the segments below `k`, with room for them. -/
theorem runSteps_segmentCommands {k : Nat} (hk : k ≤ s.nseg.toNat)
    (hroom : sumBelow k (s.cost mode v) ≤ s.params.bbMaxBits) :
    runSteps ((segmentCommands k).map ruleOf) s = (s.buffered v (mode 0) (s.dataBits mode v k), none) := by
  induction k with
  | zero => exact runSteps_cons_ok hsel
  | succ k ih =>
    have hbefore := (sumBelow_mono (Nat.le_add_right k 1) (s.cost mode v)).trans hroom
    have hcmds : segmentCommands (k + 1) = segmentCommands k ++ [.segWrite k] := by
      simp [segmentCommands, List.range_succ]
    have hrule := ruleSegWrite_dataBits hfit hmax hseg h1 h40 hk hbefore
    rw [if_neg (Nat.not_lt.2 hroom)] at hrule
    rw [hcmds, List.map_append, runSteps_append (ih (Nat.le_of_succ_le hk) hbefore)]
    exact runSteps_cons_ok hrule

end

/-! ## The terminator and the padding -/

theorem ruleBbPad_of_room {s : State} {target : Nat}
    (h : s.bitLen.toNat + (padding s.bitLen.toNat target).length ≤ s.params.bbMaxBits) :
    ruleBbPad target s = .ok (s.putBits (padding s.bitLen.toNat target)) := by
  rw [padding_end] at h
  rw [padding, State.putBits_append]
  exact if_neg (Nat.not_lt.2 h)

/-- BB_EOM and BB_PAD to the byte boundary `m` end there, or at the next byte boundary where the data passes `m`. -/
theorem runSteps_terminator {s : State} {m : Nat} (hfit : s.params.Fits) (hm : m % 8 = 0)
    (hroom : max m (alignUp8 s.bitLen.toNat) ≤ s.params.bbMaxBits) :
    ∃ bits, runSteps [ruleBbEom m, ruleBbPad m] s = (s.putBits bits, none) ∧
      s.bitLen.toNat + bits.length = max m (alignUp8 s.bitLen.toNat) := by
  obtain ⟨-, hbb, -⟩ := hfit
  have hend := padding_end s.bitLen.toNat m
  have halign : alignUp8 s.bitLen.toNat = 8 * ((s.bitLen.toNat + 7) / 8) := rfl
  by_cases hfour : s.bitLen.toNat + 4 ≤ m
  · have heom : ruleBbEom m s = .ok (s.putBits (List.replicate 4 false)) := by
      rw [ruleBbEom, if_pos hfour, bbOverflows_eq_false (by omega)]
      rfl
    have hlen : (s.putBits (List.replicate 4 false)).bitLen.toNat = s.bitLen.toNat + 4 :=
      State.putBits_bitLen s (List.replicate 4 false) (by rw [List.length_replicate]; omega)
    have hparams : (s.putBits (List.replicate 4 false)).params = s.params := by rw [State.putBits_frame]
    have hpadded := padding_end_of_aligned hm hfour
    refine ⟨List.replicate 4 false ++ padding (s.bitLen.toNat + 4) m, ?_, ?_⟩
    · rw [runSteps_cons_ok heom, runSteps_cons_ok (ruleBbPad_of_room (by rw [hlen, hparams]; omega)), hlen,
        State.putBits_append]
      rfl
    · rw [List.length_append, List.length_replicate]
      omega
  · refine ⟨padding s.bitLen.toNat m, ?_, by omega⟩
    rw [runSteps_cons_ok (if_neg hfour), runSteps_cons_ok (ruleBbPad_of_room (by omega))]
    rfl

section
variable {s : State} {mode : Nat → Nat} {v : Nat} (hfit : s.params.Fits) (hmax : s.nseg.toNat ≤ s.params.segMax)
  (hseg : ∀ i, i < s.nseg.toNat → s.SegmentIs i (mode i)) (h1 : 1 ≤ v) (h40 : v ≤ 40)
  (hsel : ruleVerSelect s = .ok (s.selected v (mode 0)))
  (hroom : max (s.holds v) (alignUp8 (s.needs mode v)) ≤ s.params.bbMaxBits)
include hfit hmax hseg h1 h40 hsel hroom

/-- ENCODE's commands up to BB_PAD, with room for them: the buffer ends at the capacity, or at the byte boundary after
data that passes it; and ENCODE runs these commands and then those of the symbol. -/
theorem runSteps_bufferCommands : ∃ bits,
    runSteps ((bufferCommands s.nseg.toNat (s.holds v)).map ruleOf) s = (s.buffered v (mode 0) bits, none) ∧
      bits.length = max (s.holds v) (alignUp8 (s.needs mode v)) ∧
      runSteps (encodeSteps s.nseg.toNat) s =
        runSteps ((bufferCommands s.nseg.toNat (s.holds v) ++ symbolCommands).map ruleOf) s := by
  obtain ⟨-, hbb, -⟩ := id hfit
  have hneeds : s.needs mode v ≤ alignUp8 (s.needs mode v) := by rw [alignUp8]; omega
  have hdata := runSteps_segmentCommands hfit hmax hseg h1 h40 hsel (Nat.le_refl _) (show s.needs mode v ≤ _ by omega)
  have hlen : (s.dataBits mode v s.nseg.toNat).length = s.needs mode v := dataBits_length hseg h40 (Nat.le_refl _)
  generalize s.dataBits mode v s.nseg.toNat = bits at hdata hlen
  have hbits : (s.buffered v (mode 0) bits).bitLen.toNat = s.needs mode v :=
    (s.buffered_bitLen v (mode 0) (by omega)).trans hlen
  have hparams := s.buffered_params v (mode 0) bits
  obtain ⟨closing, hrun, hend⟩ := runSteps_terminator (s := s.buffered v (mode 0) bits) (m := s.holds v)
    (hparams ▸ hfit) (Nat.mul_mod_right _ _) (by rw [hbits, hparams]; exact hroom)
  refine ⟨bits ++ closing, ?_, ?_, runSteps_encode hdata (s.buffered_capacity h1 h40 _ _)⟩
  · rw [bufferCommands_eq, List.map_append, runSteps_append hdata, State.buffered_append]
    exact hrun
  · rw [List.length_append, hlen, ← hbits]
    exact hend

end

end Sys2Proof.Machine

/-! ENCODE as a whole (`46_encoder.md` R284, R285): where it overflows, and the symbol it leaves where it does not. -/

namespace Sys2Proof.Machine

section
variable {s u : State}

theorem exec_encode_ok (h : runSteps (encodeSteps s.nseg.toNat) s = (u, none)) :
    exec .encode s = .next u.succeed := by
  rw [exec_encode, completeSteps, h]
  rfl

theorem exec_encode_error {e : ErrCode} (h : runSteps (encodeSteps s.nseg.toNat) s = (u, some e)) :
    exec .encode s = .next (u.raise e) := by
  rw [exec_encode, completeSteps, h]
  rfl

end

/-! ## Overflow -/

/-- The state in which ENCODE ends where a step fails with `bits` in the buffer. -/
theorem raise_buffered {s : State} {bits : List Bool} (h : bits.length ≤ 32768) (m : Nat) (e : ErrCode) :
    (s.buffered s.cfgVersion.toNat m bits).raise e = { s.failed e.code with
      mem := (s.buffered s.cfgVersion.toNat m bits).mem, resVersion := s.cfgVersion, resMode := BitVec.ofNat 4 m
      bitLen := BitVec.ofNat 16 bits.length } := by
  have hver : BitVec.ofNat 6 s.cfgVersion.toNat = s.cfgVersion := by rw [BitVec.ofNat_toNat, BitVec.setWidth_eq]
  rw [s.buffered_frame _ m h, State.selected, hver]
  rfl

/-- An ENCODE whose commands `cmds` leave `bits` in the buffer, and whose next step fails. -/
theorem exec_encode_overflow {s : State} {cmds : List Instr} {bits : List Bool} {m : Nat} {e : ErrCode}
    (hfit : s.params.Fits) (hbits : bits.length ≤ s.params.bbMaxBits)
    (hcmds : ∀ i ∈ .verSelect :: cmds, isEncodeStep i = true)
    (hrun : runSteps ((.verSelect :: cmds).map ruleOf) s = (s.buffered s.cfgVersion.toNat m bits, none))
    (hend : runSteps (encodeSteps s.nseg.toNat) s = (s.buffered s.cfgVersion.toNat m bits, some e)) :
    ∃ t p, exec .encode s = .next t ∧
      t = { s.failed e.code with
        mem := t.mem, resVersion := s.cfgVersion, resMode := BitVec.ofNat 4 m
        bitLen := BitVec.ofNat 16 bits.length } ∧
      s.Runs (.verSelect :: cmds) p ∧ t.mem = p.mem ∧ s.sameOutside t 0x005000 0x006000 :=
  ⟨_, _, exec_encode_error hend, raise_buffered (hbits.trans hfit.2.1) m e, runs_of_runSteps hcmds hrun, rfl,
    State.sameOutside_buffered hfit hbits⟩

section
variable {s : State} {mode : Nat → Nat} (hfit : s.params.Fits) (hmax : s.nseg.toNat ≤ s.params.segMax)
  (hseg : ∀ i, i < s.nseg.toNat → s.SegmentIs i (mode i)) (h1 : 1 ≤ s.cfgVersion.toNat) (h40 : s.cfgVersion.toNat ≤ 40)
  (hsel : ruleVerSelect s = .ok (s.selected s.cfgVersion.toNat (mode 0)))
include hfit hmax hseg h1 h40 hsel

/-- Segment `k` passes the end of the buffer. -/
theorem exec_encode_of_full {k : Nat} (hk : k < s.nseg.toNat)
    (hbefore : sumBelow k (s.cost mode s.cfgVersion.toNat) ≤ s.params.bbMaxBits)
    (hfull : s.params.bbMaxBits < sumBelow (k + 1) (s.cost mode s.cfgVersion.toNat)) :
    ∃ t p, exec .encode s = .next t ∧
      t = { s.failed 0x41 with
        mem := t.mem, resVersion := s.cfgVersion, resMode := BitVec.ofNat 4 (mode 0)
        bitLen := BitVec.ofNat 16 (sumBelow k (s.cost mode s.cfgVersion.toNat)) } ∧
      s.Runs (segmentCommands k) p ∧ t.mem = p.mem ∧ s.sameOutside t 0x005000 0x006000 := by
  have hlen := dataBits_length hseg h40 hk.le
  have hrun := runSteps_segmentCommands hfit hmax hseg h1 h40 hsel hk.le hbefore
  have hwrite := ruleSegWrite_dataBits hfit hmax hseg h1 h40 hk hbefore
  rw [if_pos hfull] at hwrite
  obtain ⟨rest, hsplit⟩ := encodeSteps_split hk
  have hend := (runSteps_append hrun).trans (runSteps_cons_error (rest := rest) hwrite)
  rw [← hsplit] at hend
  rw [← hlen]
  exact exec_encode_overflow hfit (hlen.trans_le hbefore) (fun i hi => isEncodeStep_of_mem (m := 0)
    (List.mem_append_left _ (List.mem_append_left _ hi))) hrun hend

/-- The version does not hold the data, which the padding ends at the next byte boundary. -/
theorem exec_encode_of_long (hlong : s.holds s.cfgVersion.toNat < s.needs mode s.cfgVersion.toNat)
    (hroom : alignUp8 (s.needs mode s.cfgVersion.toNat) ≤ s.params.bbMaxBits) :
    ∃ t p, exec .encode s = .next t ∧
      t = { s.failed 0x21 with
        mem := t.mem, resVersion := s.cfgVersion, resMode := BitVec.ofNat 4 (mode 0)
        bitLen := BitVec.ofNat 16 (alignUp8 (s.needs mode s.cfgVersion.toNat)) } ∧
      s.Runs (bufferCommands s.nseg.toNat (s.holds s.cfgVersion.toNat)) p ∧ t.mem = p.mem ∧
      s.sameOutside t 0x005000 0x006000 := by
  have hpast : s.holds s.cfgVersion.toNat < alignUp8 (s.needs mode s.cfgVersion.toNat) := by
    rw [alignUp8]
    omega
  have hmaxEq := Nat.max_eq_right hpast.le
  obtain ⟨bits, hrun, hlen, hencode⟩ := runSteps_bufferCommands hfit hmax hseg h1 h40 hsel (hmaxEq.trans_le hroom)
  rw [hmaxEq] at hlen
  have hbits := hlen.trans_le hroom
  have hassemble := ruleRsAssemble_of_long (s.buffered_ecLookup h1 h40 (mode 0) bits) (by
    rw [capacity_expandGroups, s.buffered_bitLen _ _ (hbits.trans hfit.2.1), hlen]
    exact hpast)
  rw [List.map_append, runSteps_append hrun] at hencode
  rw [← hlen]
  exact exec_encode_overflow hfit hbits (fun i hi => isEncodeStep_of_mem (List.mem_append_left _ hi)) hrun
    (hencode.trans (runSteps_cons_error hassemble))

end

/-- Settles O42: the search's error, the segment that passes the end of the buffer, or the assembly of data longer than
the capacity, each after the commands that succeed. -/
theorem encodeOverflow : Obligations.EncodeOverflow := by
  intro s mode h1 hmax hseg cost holds u needs
  have hsel : 1 ≤ u → u ≤ s.cfgMaxVer.toNat → u ≤ 40 → ruleVerSelect s = .ok (s.selected u (mode 0)) :=
    fun hv1 hv h40 => ruleVerSelect_explicit h1 hmax hseg (ne_zero_of_one_le hv1) hv h40
  refine ⟨fun h0 hnone => ?_, fun k hfit hv1 h40 hv hk hbefore hfull => ?_, fun hfit hv1 h40 hv hlong hroom => ?_⟩
  · rw [← failed_of_search]
    exact exec_of_verSelect_error (.inr rfl)
      (ruleVerSelect_none h1 hmax hseg h0 fun v hv1 h40 hv => Nat.not_lt.2 (hnone v hv1 h40 hv))
  · exact exec_encode_of_full hfit hmax hseg hv1 h40 (hsel hv1 hv h40) hk hbefore hfull
  · exact exec_encode_of_long hfit hmax hseg hv1 h40 (hsel hv1 hv h40) hlong hroom

end Sys2Proof.Machine

/-! The symbol of ENCODE (`46_encoder.md` R284, R285): the commands after the padded buffer, and a whole encoding at the
default parameters. -/

namespace Sys2Proof.Machine

/-! ## The commands of the symbol -/

/-- RS_ASSEMBLE's rule on a full buffer, where no division meets a logarithm of 0. -/
theorem ruleRsAssemble_ok {s : State} {blocks : List Block}
    (hb : ecLookup s.params s.resVersion.toNat s.cfgLevel = .ok blocks) (hfull : s.bitLen.toNat = capacity blocks)
    (herror : ∀ b ∈ blocks, b.Divisible) : ∃ bytes, ruleRsAssemble s = .ok (s.assembled blocks bytes) := by
  obtain ⟨ecs, hecs, -⟩ := allErrorCodewords_defined
    (ds := splitData blocks (s.bytesAt Window.bb.base (capacity blocks / 8))) (by rw [splitData_eq_blockData]; simp) herror
  exact ⟨_, ruleRsAssemble_of_full hb hfull hecs⟩

/-- What MX_COMMIT of BEST leaves. -/
def State.offered (s : State) : State :=
  { s.storeFinal (trial s s.best.toNat false) with finalVer := s.tplVer, resMask := s.best }

theorem ruleMxCommit_best {s : State} (h0 : s.tplVer ≠ 0) : ruleMxCommit 0 true s = .ok s.offered := by
  rw [ruleMxCommit, if_pos rfl, checkTrial_eq_ok.2 ⟨h0, Nat.le_of_lt_succ s.best.isLt⟩, State.offered]
  dsimp only
  rw [BitVec.ofNat_toNat, BitVec.setWidth_eq]

theorem templated_templateHeld {s : State} (h40 : s.resVersion.toNat ≤ 40) : s.templated.TemplateHeld := fun _ =>
  ⟨h40, fun _ _ hr hc => State.cell_of_matrixMem (s := s) (.inl rfl) rfl (template_isSquare _ _)
    (by show 4 * s.resVersion.toNat + 17 ≤ 177; omega) hr hc⟩

/-- MX_EVAL and MX_COMMIT of its best mask write the matrices, PEN, BEST, FINALVER and RES.MASK. -/
theorem State.offered_evaluated_frame (s : State) : s.evaluated.offered = { s with
    mem := s.evaluated.offered.mem, draws := s.evaluated.offered.draws, pen := s.evaluated.offered.pen
    best := s.evaluated.offered.best, resMask := s.evaluated.offered.best, finalVer := s.tplVer } := by
  rw [State.evaluated_frame]
  rfl

/-- The matrix commands leave a complete symbol of the resolved version. -/
theorem runSteps_matrixCommands {s : State} (hfit : s.params.Fits) (h1 : 1 ≤ s.resVersion.toNat)
    (h40 : s.resVersion.toNat ≤ 40) :
    runSteps [ruleMxTemplate, ruleMxEval, ruleMxCommit 0 true] s = (s.templated.evaluated.offered, none) ∧
      s.templated.evaluated.offered.FinalComplete := by
  have hset : s.templated.tplVer ≠ 0 := ne_zero_of_one_le h1
  have heval := ruleMxEval_ok hset
  have hver : s.templated.evaluated.tplVer = s.templated.tplVer := by rw [State.evaluated_frame]
  have hcommit := ruleMxCommit_best (hver ▸ hset)
  have hheld := templateHeld_of_effect (s := s.templated) hfit (templated_templateHeld h40) (ruleMxEval_effect heval)
  refine ⟨?_, finalComplete_of_commit hheld (ruleMxCommit_effect hcommit)⟩
  rw [runSteps_cons_ok (ruleMxTemplate_ok h1 h40), ← State.templated, runSteps_cons_ok heval, runSteps_cons_ok hcommit]
  rfl

/-- RS_ASSEMBLE and MX_TEMPLATE write CW, TPL, CWLEN, ECINFO and TPLVER. -/
theorem State.templated_assembled_frame (s : State) (gs : List EcGroup) (bytes : List Byte) :
    (s.assembled (expandGroups gs) bytes).templated = { s with
      mem := (s.assembled (expandGroups gs) bytes).templated.mem
      draws := (s.assembled (expandGroups gs) bytes).templated.draws
      cwLen := BitVec.ofNat 16 (totalCount gs)
      ecNBlocks := BitVec.ofNat 8 (blockCount gs)
      ecEcpb := BitVec.ofNat 8 (firstError gs)
      ecTotal := BitVec.ofNat 16 (totalCount gs)
      tplVer := s.resVersion } := by
  rw [State.assembled, writeEcInfo_expandGroups, totalCodewords_expandGroups]
  rfl

/-- `s` with what the commands of the symbol write: the registers that the block groups `gs` and the version give, and
the rest as `u` has it. -/
def State.withSymbol (s u : State) (gs : List EcGroup) : State :=
  { s with
    mem := u.mem
    draws := u.draws
    pen := u.pen
    best := u.best
    resMask := u.best
    cwLen := BitVec.ofNat 16 (totalCount gs)
    ecNBlocks := BitVec.ofNat 8 (blockCount gs)
    ecEcpb := BitVec.ofNat 8 (firstError gs)
    ecTotal := BitVec.ofNat 16 (totalCount gs)
    tplVer := s.resVersion
    finalVer := s.resVersion }

/-- What the commands of the symbol leave of a full buffer with the block groups `gs`. -/
theorem runSteps_symbolCommands {s : State} {gs : List EcGroup} (hfit : s.params.Fits)
    (h1 : 1 ≤ s.resVersion.toNat) (h40 : s.resVersion.toNat ≤ 40)
    (hb : ecLookup s.params s.resVersion.toNat s.cfgLevel = .ok (expandGroups gs))
    (hfull : s.bitLen.toNat = 8 * dataCount gs) (herror : ∀ b ∈ expandGroups gs, b.Divisible) :
    ∃ u, runSteps (symbolCommands.map ruleOf) s = (u, none) ∧ u.FinalComplete ∧
      u = s.withSymbol u gs := by
  obtain ⟨bytes, hassemble⟩ := ruleRsAssemble_ok hb (hfull.trans (capacity_expandGroups gs).symm) herror
  obtain ⟨hrun, hfinal⟩ := runSteps_matrixCommands (s := s.assembled (expandGroups gs) bytes) hfit h1 h40
  have hframe := State.offered_evaluated_frame (s.assembled (expandGroups gs) bytes).templated
  generalize (s.assembled (expandGroups gs) bytes).templated.evaluated.offered = u at hframe hrun hfinal
  rw [State.templated_assembled_frame] at hframe
  exact ⟨u, (runSteps_cons_ok hassemble).trans hrun, hfinal, hframe⟩

/-! ## The whole encoding -/

/-- The commands of ENCODE write BB and the memories after it. -/
theorem footprint_encodeStep {p : Params} (hp : p.Fits) {j : Instr} (hj : isEncodeStep j = true) {a : Nat}
    (ha : a < 0x005000 ∨ 0x060000 ≤ a) : a < (footprint p j).1 ∨ (footprint p j).2 ≤ a := by
  obtain ⟨-, hbb, -⟩ := hp
  cases j <;> simp [isEncodeStep] at hj <;> simp only [footprint, Params.bbBytes] <;> omega

theorem runSteps_encode_sameOutside {s : State} (hfit : s.params.Fits) (nseg : Nat) :
    s.sameOutside (runSteps (encodeSteps nseg) s).1 0x005000 0x060000 := by
  refine (runSteps_keeps (P := fun u => u.params = s.params ∧ s.sameOutside u 0x005000 0x060000)
    (fun rule hr u v ⟨hp, hm⟩ hv => ?_) ⟨rfl, State.sameOutside_refl _ _ _⟩).2
  obtain ⟨j, hj, he⟩ := encodeSteps_effect hr hv
  refine ⟨?_, State.sameOutside_trans hm fun a ha => he.sameOutside a (footprint_encodeStep (hp ▸ hfit) hj ha)⟩
  rw [he.frame]
  exact hp

theorem holds_default_le {s : State} {v : Nat} (hp : s.params = Params.default) (h1 : 1 ≤ v) (h40 : v ≤ 40) :
    s.holds v ≤ 23648 := by
  obtain ⟨-, -, -, -, -, hle⟩ := ecGroups_bounded (v := v) (List.mem_range'_1.2 ⟨h1, by omega⟩) s.cfgLevel
  rw [State.holds, hp]
  exact hle

section
variable {s : State} {mode : Nat → Nat} {v : Nat} (hp : s.params = Params.default)
  (hmax : s.nseg.toNat ≤ s.params.segMax) (hseg : ∀ i, i < s.nseg.toNat → s.SegmentIs i (mode i)) (h1 : 1 ≤ v)
  (h40 : v ≤ 40) (hsel : ruleVerSelect s = .ok (s.selected v (mode 0))) (hneeds : s.needs mode v ≤ s.holds v)
include hp hmax hseg h1 h40 hsel hneeds

/-- ENCODE and its commands, once VER_SELECT resolves a version that holds the data. -/
theorem runSteps_encode_of_holds : ∃ u,
    runSteps ((bufferCommands s.nseg.toNat (s.holds v) ++ symbolCommands).map ruleOf) s = (u, none) ∧
      runSteps (encodeSteps s.nseg.toNat) s = (u, none) ∧ u.FinalComplete ∧
      u = { s.selected v (mode 0) with bitLen := BitVec.ofNat 16 (s.holds v) }.withSymbol u
        (s.params.ecGroups v s.cfgLevel) := by
  have hfit : s.params.Fits := hp ▸ default_params_fit
  have hle := holds_default_le hp h1 h40
  have hend : max (s.holds v) (alignUp8 (s.needs mode v)) = s.holds v := by
    refine Nat.max_eq_left ?_
    rw [State.holds] at hneeds ⊢
    rw [alignUp8]
    omega
  have hbb : s.params.bbMaxBits = 32768 := congrArg Params.bbMaxBits hp
  obtain ⟨bits, hrun, hlen, hencode⟩ := runSteps_bufferCommands hfit hmax hseg h1 h40 hsel (by omega)
  rw [hend] at hlen
  have hver := s.buffered_version h40 (mode 0) bits
  obtain ⟨u, hsymbol, hfinal, hframe⟩ := runSteps_symbolCommands (s := s.buffered v (mode 0) bits)
    (gs := s.params.ecGroups v s.cfgLevel) ((s.buffered_params v (mode 0) bits).symm ▸ hfit) (h1.trans hver.ge)
    (hver.le.trans h40) (s.buffered_ecLookup h1 h40 _ _) ((s.buffered_bitLen v _ (by omega)).trans hlen)
    (hp ▸ blocks_divisible h1 h40 s.cfgLevel)
  have hwhole : runSteps ((bufferCommands s.nseg.toNat (s.holds v) ++ symbolCommands).map ruleOf) s = (u, none) := by
    rw [List.map_append, runSteps_append hrun, hsymbol]
  refine ⟨u, hwhole, hencode.trans hwhole, hfinal, ?_⟩
  rw [s.buffered_frame v (mode 0) (by omega), hlen] at hframe
  exact hframe

end

/-- Settles O41: VER_SELECT resolves `v`, the buffer ends at the capacity, and from a full buffer every later command
succeeds. -/
theorem encodeSucceeds : Obligations.EncodeSucceeds := by
  intro s mode v hp hn1 hn16 hseg h1 h40 hv needs holds hversion
  have hmax : s.nseg.toNat ≤ s.params.segMax := by rw [hp]; exact hn16
  obtain ⟨hsel, hneeds⟩ : ruleVerSelect s = .ok (s.selected v (mode 0)) ∧ s.needs mode v ≤ s.holds v := by
    rcases hversion with ⟨rfl, hholds⟩ | ⟨h0, hfits, hleast⟩
    · exact ⟨ruleVerSelect_explicit hn1 hmax hseg (ne_zero_of_one_le h1) hv h40, hholds⟩
    · exact ⟨ruleVerSelect_search hn1 hmax hseg h0 h1 h40 hv hfits fun u hu1 hu => Nat.not_lt.2 (hleast u hu1 hu),
        Nat.le_of_lt hfits⟩
  obtain ⟨u, hrun, hencode, hfinal, hframe⟩ := runSteps_encode_of_holds hp hmax hseg h1 h40 hsel hneeds
  have hver : u.finalVer.toNat = v :=
    (congrArg (fun t : State => t.finalVer.toNat) hframe).trans (s.selected_version h40 (mode 0))
  have houtside := runSteps_encode_sameOutside (s := s) (hp ▸ default_params_fit) s.nseg.toNat
  rw [hencode] at houtside
  obtain ⟨-, hcells⟩ := hfinal (ne_zero_of_one_le (hver.symm ▸ h1))
  rw [hver] at hcells
  exact ⟨_, exec_encode_ok hencode, runs_of_runSteps (fun i hi => isEncodeStep_of_mem hi) hrun,
    congrArg State.succeed hframe, hcells, houtside⟩

end Sys2Proof.Machine

/-! The interrupt line (`60_exceptions.md` R310, R311): the bits of the register words it is made of, and what a completing
command does to it. -/

namespace Sys2Proof.Machine

theorem State.statusWord_bit_done (s : State) : s.statusWord.getLsbD 1 = s.done := by
  have := s.busy.toNat_le
  have := s.done.toNat_le
  rw [getLsbD_eq_iff, s.statusWord_toNat]
  omega

theorem State.statusWord_bit_err (s : State) : s.statusWord.getLsbD 2 = s.err := by
  have := s.busy.toNat_le
  have := s.done.toNat_le
  have := s.err.toNat_le
  rw [getLsbD_eq_iff, s.statusWord_toNat]
  omega

theorem State.ctrlWord_bit_ieDone (s : State) : s.ctrlWord.getLsbD 0 = s.ieDone := by
  have := s.ieDone.toNat_le
  rw [getLsbD_eq_iff, s.ctrlWord_toNat]
  omega

theorem State.ctrlWord_bit_ieErr (s : State) : s.ctrlWord.getLsbD 1 = s.ieErr := by
  have := s.ieDone.toNat_le
  have := s.ieErr.toNat_le
  rw [getLsbD_eq_iff, s.ctrlWord_toNat]
  omega

/-- A line with nothing to report is low, whatever the enables. -/
theorem State.irq_eq_false {s : State} (hd : s.done = false) (he : s.err = false) : s.irq = false := by
  rw [State.irq, hd, he, Bool.false_and, Bool.false_and, Bool.false_or]

theorem State.irq_of_done {s : State} (hd : s.done = true) (hi : s.ieDone = true) : s.irq = true := by
  rw [State.irq, hd, hi, Bool.true_and, Bool.true_or]

/-- Every command that completes sets DONE, whether or not it failed, and leaves its enable (`10_state.md` R22, R24). -/
theorem exec_done {i : Instr} {s t : State} (h : exec i s = .next t) : t.done = true ∧ t.ieDone = s.ieDone := by
  obtain ⟨u, hu, ht⟩ := exec_frame h
  have hie : u.ieDone = s.ieDone := by rw [hu]; rfl
  rcases ht with rfl | ⟨e, rfl⟩
  · exact ⟨rfl, hie⟩
  · exact ⟨rfl, hie⟩

/-- Settles O55: the bits of STATUS and CTRL are the fields of the formula, a running command has nothing to report, and
completion sets DONE. -/
theorem interruptLine : Obligations.InterruptLine := by
  refine ⟨fun s => ?_, fun s hs hbusy => ?_, fun i s t _ _ hie h => ?_⟩
  · rw [s.statusWord_bit_done, s.statusWord_bit_err, s.ctrlWord_bit_ieDone, s.ctrlWord_bit_ieErr, State.irq]
  · obtain ⟨-, -, hquiet⟩ := hs
    obtain ⟨hd, he⟩ := hquiet hbusy
    exact State.irq_eq_false hd he
  · obtain ⟨hdone, hkeep⟩ := exec_done h
    exact State.irq_of_done hdone (hkeep.trans hie)

end Sys2Proof.Machine

/-! One step, by the command in flight and the host's queue (`70_reset_and_hazards.md` R350-R353), and what it makes of an
access (`30_encoding.md` R107). -/

namespace Sys2Proof

theorem decode_of_decodeTableWord {nbits w : Nat} {i : Instr} (h : decodeTableWord nbits w = some i) :
    decode (tableWord nbits w) = .ok i := by
  rw [decodeTableWord] at h
  cases hd : decode (tableWord nbits w) with
  | ok j =>
    rw [hd] at h
    exact congrArg Except.ok (Option.some.inj h)
  | error e => rw [hd] at h; cases h

end Sys2Proof

namespace Sys2Proof.Machine

section
variable {s : State}

/-! ## The host's access -/

theorem State.hostStep_of_empty (hq : s.hostQueue = []) : s.hostStep = s := by
  simp only [State.hostStep, hq]

theorem State.hostStep_of_read {width : Width} {addr : BitVec 24} {rest : List HostAction}
    (hq : s.hostQueue = .read width addr :: rest) : s.hostStep = { s with hostQueue := rest }.hostRead width addr := by
  simp only [State.hostStep, hq]

theorem State.hostStep_of_write {width : Width} {addr : BitVec 24} {value : Word} {rest : List HostAction}
    (hq : s.hostQueue = .write width addr value :: rest) :
    s.hostStep = { s with hostQueue := rest }.hostWrite width addr value := by
  simp only [State.hostStep, hq]

/-- WAIT leaves the queue where BUSY reads 0. -/
theorem State.hostStep_of_wait_idle {rest : List HostAction} (hq : s.hostQueue = .wait :: rest) (hb : s.busy = false) :
    s.hostStep = { s with hostQueue := rest }.hostRead .word s.statusAddr := by
  simp only [State.hostStep, hq, hb, Bool.false_eq_true, if_false]

/-- WAIT stays in the queue while BUSY reads 1. -/
theorem State.hostStep_of_wait_busy {rest : List HostAction} (hq : s.hostQueue = .wait :: rest) (hb : s.busy = true) :
    s.hostStep = s.hostRead .word s.statusAddr := by
  simp only [State.hostStep, hq, hb, if_true]
  rw [← hq]

/-! ## The step -/

theorem step_of_idle (hf : s.inFlight = none) : step s = .next s.hostStep := by
  simp only [step, hf]

theorem step_of_decodes {w : Word} {i : Instr} (hf : s.inFlight = some { word := w, left := 0 })
    (hd : decode w = .ok i) : step s = exec i s := by
  simp only [step, hf, if_true, runWord, hd]

theorem step_of_cycles_left {w : Word} {k : Nat} (hf : s.inFlight = some { word := w, left := k + 1 }) :
    step s = .next (s.withInFlight (some { word := w, left := k })).hostStep := by
  simp only [step, hf, Nat.add_one_ne_zero, if_false, State.tick, Nat.add_sub_cancel, State.withInFlight]

end

/-- Settles O1: each clause is the step for what is in flight, then the host's access for the head of its queue. -/
theorem stepRunsDecodedCommand : Obligations.StepRunsDecodedCommand := by
  refine ⟨fun s w i hf hd => step_of_decodes hf hd, fun s nbits w i hd => ?fetched, fun s hf hq => ?empty,
    fun s width addr rest hf hq => ?read, fun s width addr value rest hf hq => ?write, fun s rest hf hq => ?waitIdle,
    fun s w k hf => step_of_cycles_left hf, fun s w k rest hf hq => ?waitBusy⟩
  case fetched => exact step_of_decodes rfl (decode_of_decodeTableWord hd)
  case empty => rw [step_of_idle hf, State.hostStep_of_empty hq]
  case read => rw [step_of_idle hf, State.hostStep_of_read hq]
  case write => rw [step_of_idle hf, State.hostStep_of_write hq]
  case waitIdle =>
    have hb : s.busy = false := by rw [State.busy, hf]; rfl
    rw [step_of_idle hf, State.hostStep_of_wait_idle hq hb, State.statusAddr]
  case waitBusy =>
    have hq' : (s.withInFlight (some { word := w, left := k })).hostQueue = .wait :: rest := hq
    rw [step_of_cycles_left hf, State.hostStep_of_wait_busy hq' rfl]
    rfl

end Sys2Proof.Machine
